-- ==== Sys2Proof/Word.lean ====
section
/-! DEFINITION. The vector types of CORE (rules R7, R9, R21, R39). -/

namespace Sys2Proof

/-- A register or command word: 32 bits, bit 0 least significant (R7). -/
abbrev Word := BitVec 32

/-- A byte of the raster space (R9). -/
abbrev Byte := BitVec 8

/-- A container of a grid buffer: 64 bits (R39). -/
abbrev Container := BitVec 64

/-- A byte offset in the register space: 24 bits (R21). -/
abbrev Offset := BitVec 24

end Sys2Proof
end

