-- ==== Sys2Proof/Syntax.lean ====
section
/-! DEFINITION. The 19 commands of CORE (rule R100, spec/opcode_table.json), one constructor each. -/

namespace Sys2Proof

/-- The field `prec` (R105) and with it the format `F` of a transform command (R12, R202): `s` is binary32, `d` is binary64. -/
inductive Prec where
  | s
  | d
  deriving DecidableEq, Repr

/-- A command (R100). `px` names a pixel register (R103); `fmt` is the unsigned 8-bit immediate of R104, a number that
`WellFormed` bounds; `prec` is the precision of R105. -/
inductive Instr where
  | nop
  | errclr
  | pxnew (px : Fin 4) (fmt : Nat)
  | pxr (px : Fin 4)
  | pxg (px : Fin 4)
  | pxb (px : Fin 4)
  | pxy (px : Fin 4)
  | pxcb (px : Fin 4)
  | pxcr (px : Fin 4)
  | mnew
  | mget (px : Fin 4)
  | mset (px : Fin 4)
  | mfrr
  | mtor
  | dcta (prec : Prec)
  | idcta (prec : Prec)
  | dctb (prec : Prec)
  | idctb (prec : Prec)
  | gmov
  deriving DecidableEq, Repr

end Sys2Proof
end

