-- ==== Sys2Proof/WellFormed.lean ====
section
/-! DEFINITION. Which commands have an encoding. The types bound `px` and `prec`; `fmt` must fit its 8-bit field (R104). -/

namespace Sys2Proof

/-- A command is well formed when its immediate fits its field: `fmt` is an unsigned 8-bit immediate (R104). -/
def Instr.WellFormed : Instr → Bool
  | .pxnew _ fmt => decide (fmt < 256)
  | .nop => true
  | .errclr => true
  | .pxr _ => true
  | .pxg _ => true
  | .pxb _ => true
  | .pxy _ => true
  | .pxcb _ => true
  | .pxcr _ => true
  | .mnew => true
  | .mget _ => true
  | .mset _ => true
  | .mfrr => true
  | .mtor => true
  | .dcta _ => true
  | .idcta _ => true
  | .dctb _ => true
  | .idctb _ => true
  | .gmov => true

end Sys2Proof
end

