-- ==== Sys2Proof/Decode.lean ====
section
/-! DEFINITION. The decoder of rule R101, total on 32-bit words, and the encoder, both from the formats of R102..R105 and the
opcodes of R100. -/

namespace Sys2Proof

/-- Why a word is no command (R101, R108). -/
inductive DecodeError where
  /-- `w[7:0]` is not an opcode of R100. -/
  | unknownOpcode
  /-- A reserved field of the opcode's format is not 0. -/
  | reservedBits
  deriving DecidableEq, Repr

/-- `w[7:0]`. -/
def opcodeField (w : Word) : BitVec 8 := w.extractLsb' 0 8

/-- `w[9:8]`, the pixel register (R103, R104). -/
def pxField (w : Word) : Fin 4 := (w.extractLsb' 8 2).toFin

/-- `w[23:16]`, the format tag, zero-extended (R104). -/
def fmtField (w : Word) : Nat := (w.extractLsb' 16 8).toNat

/-- `w[8]`, the precision (R105): 0 is `S`, 1 is `D`. -/
def precField (w : Word) : Prec := if w.extractLsb' 8 1 = 0#1 then .s else .d

/-- Format Z (R102): bits 31:8 reserved. -/
def formatZ (w : Word) (i : Instr) : Except DecodeError Instr :=
  if w.extractLsb' 8 24 = 0#24 then .ok i else .error .reservedBits

/-- Format P (R103): bits 31:10 reserved. -/
def formatP (w : Word) (mk : Fin 4 → Instr) : Except DecodeError Instr :=
  if w.extractLsb' 10 22 = 0#22 then .ok (mk (pxField w)) else .error .reservedBits

/-- Format PF (R104): bits 31:24 and 15:10 reserved. -/
def formatPF (w : Word) (mk : Fin 4 → Nat → Instr) : Except DecodeError Instr :=
  if w.extractLsb' 24 8 = 0#8 ∧ w.extractLsb' 10 6 = 0#6 then .ok (mk (pxField w) (fmtField w))
  else .error .reservedBits

/-- Format T (R105): bits 31:9 reserved. -/
def formatT (w : Word) (mk : Prec → Instr) : Except DecodeError Instr :=
  if w.extractLsb' 9 23 = 0#23 then .ok (mk (precField w)) else .error .reservedBits

/-- The command a word stands for, or why it stands for none (R101). -/
def decode (w : Word) : Except DecodeError Instr :=
  match opcodeField w with
  | 0x00#8 => formatZ w .nop
  | 0x01#8 => formatZ w .errclr
  | 0x10#8 => formatPF w .pxnew
  | 0x11#8 => formatP w .pxr
  | 0x12#8 => formatP w .pxg
  | 0x13#8 => formatP w .pxb
  | 0x14#8 => formatP w .pxy
  | 0x15#8 => formatP w .pxcb
  | 0x16#8 => formatP w .pxcr
  | 0x20#8 => formatZ w .mnew
  | 0x21#8 => formatP w .mget
  | 0x22#8 => formatP w .mset
  | 0x23#8 => formatZ w .mfrr
  | 0x24#8 => formatZ w .mtor
  | 0x30#8 => formatT w .dcta
  | 0x31#8 => formatT w .idcta
  | 0x32#8 => formatT w .dctb
  | 0x33#8 => formatT w .idctb
  | 0x38#8 => formatZ w .gmov
  | _ => .error .unknownOpcode

/-- The word of format Z (R102). -/
def wordZ (op : BitVec 8) : Word := 0#24 ++ op

/-- The word of format P (R103). -/
def wordP (op : BitVec 8) (px : Fin 4) : Word := 0#22 ++ BitVec.ofNat 2 px.val ++ op

/-- The word of format PF (R104): `{0[7:0], fmt[7:0], 0[5:0], px[1:0], op}`. -/
def wordPF (op : BitVec 8) (px : Fin 4) (fmt : Nat) : Word :=
  0#8 ++ BitVec.ofNat 8 fmt ++ 0#6 ++ BitVec.ofNat 2 px.val ++ op

/-- The bit of the field `prec` (R105). -/
def Prec.bit : Prec → BitVec 1
  | .s => 0#1
  | .d => 1#1

/-- The word of format T (R105). -/
def wordT (op : BitVec 8) (prec : Prec) : Word := 0#23 ++ prec.bit ++ op

/-- The word of a command (R100, R102..R105). -/
def encode : Instr → Word
  | .nop => wordZ 0x00#8
  | .errclr => wordZ 0x01#8
  | .pxnew px fmt => wordPF 0x10#8 px fmt
  | .pxr px => wordP 0x11#8 px
  | .pxg px => wordP 0x12#8 px
  | .pxb px => wordP 0x13#8 px
  | .pxy px => wordP 0x14#8 px
  | .pxcb px => wordP 0x15#8 px
  | .pxcr px => wordP 0x16#8 px
  | .mnew => wordZ 0x20#8
  | .mget px => wordP 0x21#8 px
  | .mset px => wordP 0x22#8 px
  | .mfrr => wordZ 0x23#8
  | .mtor => wordZ 0x24#8
  | .dcta prec => wordT 0x30#8 prec
  | .idcta prec => wordT 0x31#8 prec
  | .dctb prec => wordT 0x32#8 prec
  | .idctb prec => wordT 0x33#8 prec
  | .gmov => wordZ 0x38#8

/-- The command this decoder reads from the table's bits `w` of a row of `nbits` bits: every command is one 32-bit word
(R109), so the word is `w` with every bit above `nbits` zero. -/
def decodeTableWord (nbits w : Nat) : Option Instr :=
  (decode (BitVec.ofNat 32 (w % 2 ^ nbits))).toOption

end Sys2Proof
end

