-- ==== Sys2Proof/Config.lean ====
section
/-! DEFINITION. What an implementation fixes (rule R5) and the free values of the spec (93_implementation_defined.md U1, U2).
The parameters that the spec leaves OPEN are a record, `Platform`, that a state carries: a claim about every state is then a
claim about every value of the parameters. -/

namespace Sys2Proof.Config

/-- `BS`, the block size: 8, fixed (R5, conflict C5). -/
def bs : Nat := 8

/-- `NMAX`, the largest extent of either index of a grid: 8 (R5). -/
def nmax : Nat := 8

/-- `NPX`, the number of pixel registers: 4 (R5). -/
def npx : Nat := 4

/-- The word `ID` reads (R1, R22): ASCII "DCT8". -/
def idWord : Word := 0x44435438

/-- FREE VALUE (U1, log 5): from the n-th draw, the bits that become the sign and the payload of a NaN result. -/
opaque freeNaN : Nat → BitVec 64

/-- FREE VALUE (U2, `NAN_BYTE` of R5, log 6): the n-th draw of the byte `MTOR` stores for a NaN component. -/
opaque freeNanByte : Nat → Byte

end Sys2Proof.Config

namespace Sys2Proof

/-- The direction of a raster access (R5, R73). -/
inductive Dir where
  | rd
  | wr
  deriving DecidableEq, Repr

/-- One clause of the platform predicate `RasterAdmit` (R5): the addresses `lo ≤ a < hi` may be read, written, or both.
Every predicate on the finite raster space is a list of such clauses (log 3). -/
structure AdmitRange where
  lo : Nat
  hi : Nat
  read : Bool
  write : Bool
  deriving DecidableEq, Repr

/-- The parameters that R5 leaves OPEN: `PMAX`, `MATCAP`, `RasterAdmit`. No step changes them (R312). -/
structure Platform where
  pmax : Nat
  matcap : Nat
  admitted : List AdmitRange
  deriving DecidableEq, Repr

/-- The legal ranges of R5: `PMAX` in 1..255, `MATCAP` in 0..2^30, any `RasterAdmit`. -/
abbrev Platform.legal (p : Platform) : Prop :=
  1 ≤ p.pmax ∧ p.pmax ≤ 255 ∧ p.matcap ≤ 2 ^ 30

/-- The values R5 suggests, with every raster address admitted (DESIGN CHOICE, log 2 and log 3). -/
def Platform.suggested : Platform :=
  { pmax := 4, matcap := 2 ^ 20, admitted := [{ lo := 0, hi := 2 ^ 32, read := true, write := true }] }

end Sys2Proof
end

