-- ==== Sys2Proof/Machine/State.lean ====
section
/-! DEFINITION. The state of CORE (10_state.md), as plain data, its reset value (R48), and the reasons a step can stop. -/

namespace Sys2Proof.Machine

/-- The format tag of a Pixel (R17, R37, R130). -/
inductive Tag where
  | additive
  | lumaChroma
  deriving DecidableEq, Repr

/-- A Pixel `(tag, c1, c2, c3)` (R17, R37, R130); the components are the encodings of format `S`, any bit pattern. -/
structure Pixel where
  tag : Tag
  c1 : Word
  c2 : Word
  c3 : Word
  deriving DecidableEq, Repr

/-- Black: `(Additive, +0, +0, +0)` (R17). -/
def Pixel.black : Pixel := { tag := .additive, c1 := 0, c2 := 0, c3 := 0 }

/-- The operand registers (R20, R28..R33). -/
structure OperandRegs where
  npart : Word
  gw : Word
  gh : Word
  argh : Word
  argw : Word
  row : Word
  col : Word
  rbase : Word
  rstride : Word
  c1 : Word
  c2 : Word
  c3 : Word
  deriving DecidableEq, Repr

/-- The status registers (R20, R24..R27). `STATUS` is `lastErr` in bits 7:0 and `sticky` in bit 8; its other bits read 0. -/
structure StatusRegs where
  lastErr : BitVec 8
  sticky : Bool
  errA : Word
  errB : Word
  cmdCnt : Word
  deriving DecidableEq, Repr

/-- The block buffer (R35, R38, R160): `MH`, `MW`, and the cells that are not Black, keyed by linear index
`row * MW + col`, keys strictly rising (log 13). A cell that is not listed is Black. -/
structure PixelMatrix where
  height : Word
  width : Word
  cells : List (Nat × Pixel)
  deriving DecidableEq, Repr

/-- A grid buffer of `NMAX × NMAX = 64` containers (R39, R40); container `(a, b)` is number `8*a + b` (R41). -/
abbrev Grid := Vector Container 64

/-- The raster memory (R72): bytes by address, addresses strictly rising, no byte equal to what an unlisted address reads as
(log 4). -/
abbrev Memory := List Host.Cell

/-- What the outside world does to CORE, one event a step (R9, R14, R45, R310; log 1). -/
inductive HostEvent where
  /-- `wr(off, v)`: the host writes the 32-bit value `v` at byte offset `off` (R9). -/
  | wr (off : Offset) (v : Word)
  /-- `rd(off)`: the host reads 32 bits (R9). -/
  | rd (off : Offset)
  /-- A register access that is not 32 bits wide but `bytes` bytes, which the spec says a model refuses (R76, U6). -/
  | narrow (off : Offset) (bytes : Nat)
  /-- The platform applies reset between two transactions (R310). -/
  | reset
  /-- The platform applies reset while `wr(CMD, w)` is in progress, after `bytes` raster bytes were written (R310). -/
  | resetDuring (w : Word) (bytes : Nat)
  /-- The host stores a byte into raster memory, "by means outside this spec" (R45; log 16). -/
  | poke (addr : BitVec 32) (v : Byte)
  deriving DecidableEq, Repr

/-- The whole state of the machine. The first seven fields are CORE's (R20); `plat` holds the parameters (R5), `raster` the
raster memory, and `host`, `reads`, `draws` are the model's own (log 1, log 15, log 7). -/
structure State where
  opnd : OperandRegs
  res : Word
  stat : StatusRegs
  px : Vector Pixel 4
  mat : PixelMatrix
  gin : Grid
  gout : Grid
  plat : Platform
  raster : Memory
  host : List HostEvent
  reads : List Word
  draws : Nat
  deriving DecidableEq, Repr

/-- Why a step stops with a fault. No rule of the spec makes CORE stop: an error is reported in `STATUS` and the machine goes
on (R270, R275, R277), so there is no constructor (log 18). -/
inductive Fault where
  deriving DecidableEq, Repr

/-- Why a step is refused. -/
inductive Refusal where
  /-- Raised by `exec` for a command that has no meaning in this model yet; safe. No arm of `exec` raises it. -/
  | notModelled (mnemonic : String)
  /-- Raised by a host transaction whose offset is not a multiple of 4, which "a model refuses" (R47, R76, U6); safe. -/
  | misalignedAccess
  /-- Raised by a register access that is not 32 bits wide, which "a model refuses" (R47, R76, U6); safe. -/
  | narrowAccess
  deriving DecidableEq, Repr

/-- The errors of R271 with the data their information words are made of (R272). -/
inductive CommandError where
  /-- `PXNEW` with an unrecognised tag. -/
  | invalidFormat (fmt : Nat)
  /-- A Matrix access outside the padded bounds: the offending `(row, col)`. -/
  | indexOutOfRange (row col : Word)
  /-- A word that is no command. -/
  | illegalCommand (w : Word)
  /-- A dimension or count the hardware cannot hold: sub-cause 1..4 and the offending value. -/
  | paramRange (cause value : Word)
  /-- A byte of the raster footprint that is not an address or is not admitted. -/
  | busFault (addr : Nat) (dir : Dir)
  deriving DecidableEq, Repr

/-- The operand registers after reset (R48): `NPART = PMAX`, `GW = GH = 8`, the others 0. -/
def OperandRegs.reset (p : Platform) : OperandRegs :=
  { npart := BitVec.ofNat 32 p.pmax, gw := 8, gh := 8, argh := 0, argw := 0, row := 0, col := 0, rbase := 0, rstride := 0,
    c1 := 0, c2 := 0, c3 := 0 }

/-- The status registers after reset (R48). -/
def StatusRegs.reset : StatusRegs := { lastErr := 0, sticky := false, errA := 0, errB := 0, cmdCnt := 0 }

/-- The block buffer after reset (R38, R48): no cells. -/
def PixelMatrix.reset : PixelMatrix := { height := 0, width := 0, cells := [] }

/-- A grid of zero containers. -/
def Grid.zero : Grid := Vector.replicate 64 0

/-- CORE just out of reset (R48, R310) on a platform with parameters `p`, with raster memory `m`, the events `h` still to
come, and the model's own `reads` and `draws` as given: reset touches none of these. -/
def State.afterReset (p : Platform) (m : Memory) (h : List HostEvent) (reads : List Word) (draws : Nat) : State :=
  { opnd := OperandRegs.reset p, res := 0, stat := StatusRegs.reset, px := Vector.replicate 4 Pixel.black,
    mat := PixelMatrix.reset, gin := Grid.zero, gout := Grid.zero, plat := p, raster := m, host := h, reads := reads,
    draws := draws }

/-- The machine right after reset (R48), with the parameters R5 suggests, nothing in raster memory and no event to come
(log 1..4, 7, 15). -/
def State.reset : State := State.afterReset Platform.suggested [] [] [] 0

end Sys2Proof.Machine
end

