-- ==== Sys2Proof/Machine/Flags.lean ====
section
/-! DEFINITION. The status flags and error reports: the codes of R271, the information words of R272, the word `STATUS` reads
(R24). -/

namespace Sys2Proof.Machine

/-- The code `STATUS.LASTERR` takes (R271). -/
def CommandError.code : CommandError → BitVec 8
  | .invalidFormat _ => 0x01
  | .indexOutOfRange _ _ => 0x02
  | .illegalCommand _ => 0x10
  | .paramRange _ _ => 0x11
  | .busFault _ _ => 0x12

/-- The information word `ERRA` (R272); for `BusFault` the address mod 2^32. -/
def CommandError.infoA : CommandError → Word
  | .invalidFormat fmt => BitVec.ofNat 32 fmt
  | .indexOutOfRange row _ => row
  | .illegalCommand w => w
  | .paramRange cause _ => cause
  | .busFault addr _ => BitVec.ofNat 32 addr

/-- The information word `ERRB` (R272); for `BusFault` bit 0 is 1 for a write and bit 1 is 1 when the address is no address. -/
def CommandError.infoB : CommandError → Word
  | .invalidFormat _ => 0
  | .indexOutOfRange _ col => col
  | .illegalCommand _ => 0
  | .paramRange _ value => value
  | .busFault addr dir =>
    (match dir with
      | .rd => 0#32
      | .wr => 1#32) ||| (if 2 ^ 32 ≤ addr then 2#32 else 0#32)

/-- The word `STATUS` reads (R24): `LASTERR` in bits 7:0, `STICKY` in bit 8, zeros above. -/
def StatusRegs.word (r : StatusRegs) : Word := 0#23 ++ BitVec.ofBool r.sticky ++ r.lastErr

/-- The status registers after a command that completes (R27, R274): `LASTERR` 0, `CMDCNT` one more; `STICKY`, `ERRA`, `ERRB`
stay. -/
def StatusRegs.completed (r : StatusRegs) : StatusRegs := { r with lastErr := 0, cmdCnt := r.cmdCnt + 1 }

/-- The status registers after a command that raises `e` (R274): the five writes of a raising command. -/
def StatusRegs.raised (e : CommandError) (r : StatusRegs) : StatusRegs :=
  { lastErr := e.code, sticky := true, errA := e.infoA, errB := e.infoB, cmdCnt := r.cmdCnt + 1 }

/-- `STATUS.STICKY <- 0` (R261). -/
def StatusRegs.clearSticky (r : StatusRegs) : StatusRegs := { r with sticky := false }

end Sys2Proof.Machine
end

