-- ==== Sys2Proof/Machine/Operands.lean ====
section
/-! DEFINITION. The operand forms: padding and bounds of the Matrix (R161..R163), raster addresses and footprints (R71..R73,
R78), grid extents (R204), partitions of a transform's first index (R210). All arithmetic is in the naturals (R6). -/

namespace Sys2Proof.Machine

/-- `pad8(n) = ((n + 7) div 8) * 8` (R6, R161). -/
def pad8 (n : Nat) : Nat := (n + 7) / 8 * 8

/-- A padded size `h' × w'` that the Matrix store can hold (R163). -/
def fitsMatrix (p : Platform) (h' w' : Nat) : Bool :=
  decide (h' < 2 ^ 32) && decide (w' < 2 ^ 32) && decide (h' * w' ≤ p.matcap)

/-- An index `(row, col)` inside the padded bounds (R162). -/
def PixelMatrix.inside (m : PixelMatrix) (row col : Nat) : Bool :=
  decide (row < m.height.toNat) && decide (col < m.width.toNat)

/-- `RA(r, c, b) = RBASE + r * RSTRIDE + 3 * c + b` in the naturals, never wrapped (R71). -/
def rasterAddr (o : OperandRegs) (r c b : Nat) : Nat :=
  o.rbase.toNat + r * o.rstride.toNat + 3 * c + b

/-- A byte of a raster: row, column, and which of the pixel's three bytes (R70). -/
structure RasterPoint where
  row : Nat
  col : Nat
  byte : Nat
  deriving DecidableEq, Repr

/-- The pixels of an `h × w` raster in access order (R78): rows, then columns, ascending. -/
def rasterPixels (h w : Nat) : List (Nat × Nat) :=
  if w = 0 then [] else (List.range h).flatMap fun r => (List.range w).map fun c => (r, c)

/-- The bytes of an `h × w` raster in access order (R78): pixels, then bytes 0, 1, 2. -/
def rasterPoints (h w : Nat) : List RasterPoint :=
  (rasterPixels h w).flatMap fun rc =>
    [{ row := rc.1, col := rc.2, byte := 0 }, { row := rc.1, col := rc.2, byte := 1 }, { row := rc.1, col := rc.2, byte := 2 }]

/-- The address of a byte of the raster the operand registers describe. -/
def RasterPoint.addr (o : OperandRegs) (p : RasterPoint) : Nat := rasterAddr o p.row p.col p.byte

/-- `RasterAdmit(addr, dir)` (R5, R73). -/
def rasterAdmit (p : Platform) (dir : Dir) (addr : Nat) : Bool :=
  p.admitted.any fun r => decide (r.lo ≤ addr) && decide (addr < r.hi) && (match dir with
    | .rd => r.read
    | .wr => r.write)

/-- May CORE access this address in this direction: it is an address (R72) and it is admitted (R73). -/
def accessible (p : Platform) (dir : Dir) (addr : Nat) : Bool :=
  decide (addr < 2 ^ 32) && rasterAdmit p dir addr

/-- The footprint of `ARGH × ARGW` pixels in access order (R73). -/
def footprint (o : OperandRegs) : List Nat :=
  (rasterPoints o.argh.toNat o.argw.toNat).map (RasterPoint.addr o)

/-- The first byte of the footprint that CORE may not access, if there is one (R73). -/
def firstBadByte (p : Platform) (dir : Dir) (o : OperandRegs) : Option Nat :=
  (footprint o).find? fun a => !(accessible p dir a)

/-- The footprint check of R73. -/
def checkFootprint (p : Platform) (dir : Dir) (o : OperandRegs) : Except CommandError Unit :=
  match firstBadByte p dir o with
  | none => .ok ()
  | some a => .error (.busFault a dir)

/-- The capacity check of `MNEW` and `MFRR` (R163, R164, R167). -/
def checkCapacity (p : Platform) (o : OperandRegs) : Except CommandError Unit :=
  if fitsMatrix p (pad8 o.argh.toNat) (pad8 o.argw.toNat) then .ok () else .error (.paramRange 4 0)

/-- The bounds check of `MGET` and `MSET` (R165, R166). -/
def checkInside (m : PixelMatrix) (o : OperandRegs) : Except CommandError Unit :=
  if m.inside o.row.toNat o.col.toNat then .ok () else .error (.indexOutOfRange o.row o.col)

/-- The region check of `MTOR` (R168): an empty region always passes; the column test comes first. -/
def checkRegion (m : PixelMatrix) (o : OperandRegs) : Except CommandError Unit :=
  if 0 < o.argh.toNat ∧ 0 < o.argw.toNat ∧ (m.height.toNat < o.argh.toNat ∨ m.width.toNat < o.argw.toNat) then
    if m.width.toNat < o.argw.toNat then .error (.indexOutOfRange 0 m.width) else .error (.indexOutOfRange m.height 0)
  else .ok ()

/-- The checks of `GW`, then `GH` (R204), common to the four transform commands. -/
def checkExtents (o : OperandRegs) : Except CommandError Unit :=
  if o.gw.toNat = 0 ∨ Config.nmax < o.gw.toNat then .error (.paramRange 1 o.gw)
  else if o.gh.toNat = 0 ∨ Config.nmax < o.gh.toNat then .error (.paramRange 2 o.gh)
  else .ok ()

/-- The checks of R204 for Formulation A: `GW`, `GH`, then `NPART`. -/
def checkExtentsAndParts (o : OperandRegs) : Except CommandError Unit := do
  checkExtents o
  if o.npart.toNat = 0 then .error (.paramRange 3 o.npart) else .ok ()

/-- The first index of partition `p` of `P` over `[0, W)` (R210). -/
def partStart (W P p : Nat) : Nat := p * (W / P)

/-- The index after the last of partition `p` (R210): the last partition takes the remainder. -/
def partEnd (W P p : Nat) : Nat := if p = P - 1 then W else (p + 1) * (W / P)

/-- The numbers of the partitions that can be non-empty (R210): all of them when `P ≤ W`, else only the last. -/
def liveParts (W P : Nat) : List Nat := if P ≤ W then List.range P else [P - 1]

/-- The first indices of partition `p`, ascending (R211). -/
def partIndices (W P p : Nat) : List Nat :=
  (List.range (partEnd W P p - partStart W P p)).map (partStart W P p + ·)

/-- The cells of partition `p`: every first index in it with every second index (R211). -/
def partCells (W H P p : Nat) : List (Nat × Nat) :=
  (partIndices W P p).flatMap fun a => (List.range H).map fun b => (a, b)

/-- The cells of the whole grid in the order the partitions are run here, one after another (R215 leaves it free; log 10). -/
def laneOrder (W H P : Nat) : List (Nat × Nat) := (liveParts W P).flatMap (partCells W H P)

/-- The cells of the grid in ascending order of the first then the second index (R209, R218). -/
def gridCells (W H : Nat) : List (Nat × Nat) :=
  (List.range W).flatMap fun a => (List.range H).map fun b => (a, b)

end Sys2Proof.Machine
end

