-- ==== Sys2Proof/Machine/Float.lean ====
section
/-! DEFINITION. The arithmetic `NUM` of rules R12 and R13: IEEE 754 binary32 (`S`) and binary64 (`D`), round to nearest even,
gradual underflow, nothing fused. Every finite number of a format is a whole multiple of its smallest subnormal, so a finite
value is a sign and a natural number of those units, and each operation computes exactly and rounds once (log 8). -/

namespace Sys2Proof

/-- The number of fraction bits: 23 or 52 (R12). -/
def Prec.fracBits : Prec → Nat
  | .s => 23
  | .d => 52

/-- The number of exponent bits: 8 or 11 (R12). -/
def Prec.expBits : Prec → Nat
  | .s => 8
  | .d => 11

/-- The number of bits of an encoding (R12). -/
def Prec.width : Prec → Nat
  | .s => 32
  | .d => 64

/-- The unit of a magnitude is `2^(-unitExp)`, the smallest subnormal of the format. -/
def Prec.unitExp : Prec → Nat
  | .s => 149
  | .d => 1074

/-- The first power of two past the format, in units: a rounded magnitude that reaches `2^topExp` is an infinity. -/
def Prec.topExp : Prec → Nat
  | .s => 277
  | .d => 2098

/-- A value of a format. There is one NaN: its sign and payload are chosen only where a NaN is encoded (R12, U1). -/
inductive FVal where
  | nan
  | inf (neg : Bool)
  /-- `(-1)^neg * mag * 2^(-unitExp)`. -/
  | fin (neg : Bool) (mag : Nat)
  deriving DecidableEq, Repr

namespace FVal

/-- `+0`. -/
def zero : FVal := .fin false 0

/-- The exact conversion of a small natural number (R12, R253). -/
def ofNat (F : Prec) (n : Nat) : FVal := .fin false (n * 2 ^ F.unitExp)

/-- The value with its sign bit changed. -/
def neg : FVal → FVal
  | .nan => .nan
  | .inf s => .inf (!s)
  | .fin s m => .fin (!s) m

/-- Is the value a NaN? -/
def isNaN : FVal → Bool
  | .nan => true
  | .inf _ => false
  | .fin _ _ => false

end FVal

/-- `n / d` to the nearest natural number, a tie to the even one. -/
def roundDiv (n d : Nat) : Nat :=
  if 2 * (n % d) < d then n / d
  else if d < 2 * (n % d) then n / d + 1
  else n / d + n / d % 2

/-- The spacing of the format around `n / d` units is `2^(spacing F n d)` units: 1 unit up to the first normal binade. -/
def spacing (F : Prec) (n d : Nat) : Nat := (n / d).log2 - F.fracBits

/-- `n / d` units rounded to the format's nearest magnitude, a tie to the even last fraction bit, exponent unbounded. -/
def rnMag (F : Prec) (n d : Nat) : Nat :=
  roundDiv n (d * 2 ^ spacing F n d) * 2 ^ spacing F n d

/-- `RN_F` of the real number `(-1)^neg * (n / d)` units (R12): to nearest even, overflowing to an infinity. -/
def rn (F : Prec) (neg : Bool) (n d : Nat) : FVal :=
  if rnMag F n d < 2 ^ F.topExp then .fin neg (rnMag F n d) else .inf neg

/-- `RN_F` of the rational number `(-1)^neg * num / den` (R12, R111). -/
def rnRational (F : Prec) (neg : Bool) (num den : Nat) : FVal := rn F neg (num * 2 ^ F.unitExp) den

/-- `fadd_F(a, b) = RN_F(a + b)` (R12): `x + (-x) = +0`, `inf - inf` is a NaN. -/
def fadd (F : Prec) : FVal → FVal → FVal
  | .nan, _ => .nan
  | .inf _, .nan => .nan
  | .fin _ _, .nan => .nan
  | .inf s, .inf t => if s = t then .inf s else .nan
  | .inf s, .fin _ _ => .inf s
  | .fin _ _, .inf t => .inf t
  | .fin s m, .fin t n =>
    if s = t then rn F s (m + n) 1
    else if m = n then .fin false 0
    else if n < m then rn F s (m - n) 1
    else rn F t (n - m) 1

/-- `fsub_F(a, b) = RN_F(a - b)` (R12). -/
def fsub (F : Prec) (a b : FVal) : FVal := fadd F a b.neg

/-- `fmul_F(a, b) = RN_F(a * b)` (R12): `0 * inf` is a NaN. -/
def fmul (F : Prec) : FVal → FVal → FVal
  | .nan, _ => .nan
  | .inf _, .nan => .nan
  | .fin _ _, .nan => .nan
  | .inf s, .inf t => .inf (s ^^ t)
  | .inf s, .fin t n => if n = 0 then .nan else .inf (s ^^ t)
  | .fin s m, .inf t => if m = 0 then .nan else .inf (s ^^ t)
  | .fin s m, .fin t n => rn F (s ^^ t) (m * n) (2 ^ F.unitExp)

/-- `fdiv_F(a, b) = RN_F(a / b)` (R12): `0/0` and `inf/inf` are NaNs, `x / 0` is the infinity of the product of signs. -/
def fdiv (F : Prec) : FVal → FVal → FVal
  | .nan, _ => .nan
  | .inf _, .nan => .nan
  | .fin _ _, .nan => .nan
  | .inf _, .inf _ => .nan
  | .inf s, .fin t _ => .inf (s ^^ t)
  | .fin s _, .inf t => .fin (s ^^ t) 0
  | .fin s m, .fin t n =>
    if n = 0 then (if m = 0 then .nan else .inf (s ^^ t)) else rn F (s ^^ t) (m * 2 ^ F.unitExp) n

/-- `val_F(v)` (R12): the value a bit pattern encodes. -/
def val (F : Prec) (v : Nat) : FVal :=
  if v / 2 ^ F.fracBits % 2 ^ F.expBits = 2 ^ F.expBits - 1 then
    if v % 2 ^ F.fracBits = 0 then .inf (v.testBit (F.width - 1)) else .nan
  else if v / 2 ^ F.fracBits % 2 ^ F.expBits = 0 then .fin (v.testBit (F.width - 1)) (v % 2 ^ F.fracBits)
  else .fin (v.testBit (F.width - 1))
    ((2 ^ F.fracBits + v % 2 ^ F.fracBits) * 2 ^ (v / 2 ^ F.fracBits % 2 ^ F.expBits - 1))

/-- The exponent and fraction fields of a magnitude, as one number: `mag` itself below `2^fracBits`; above it the implicit
leading bit of `mag / 2^e` adds 1 to the exponent field `e`. -/
def magBits (F : Prec) (mag : Nat) : Nat :=
  (mag.log2 - F.fracBits) * 2 ^ F.fracBits + mag / 2 ^ (mag.log2 - F.fracBits)

/-- The sign bit of an encoding. -/
def signBits (F : Prec) (neg : Bool) : Nat := if neg then 2 ^ (F.width - 1) else 0

/-- The exponent field of infinities and NaNs, all ones. -/
def expOnes (F : Prec) : Nat := (2 ^ F.expBits - 1) * 2 ^ F.fracBits

/-- A NaN of the format made of drawn bits (U1): exponent all ones, fraction not zero, sign and payload free. Every NaN of the
format is the result of some draw. -/
def nanBits (F : Prec) (draw : BitVec 64) : Nat :=
  signBits F (draw.toNat.testBit (F.width - 1)) + expOnes F +
    (if draw.toNat % 2 ^ F.fracBits = 0 then 1 else draw.toNat % 2 ^ F.fracBits)

/-- `bits_F(x)` (R12): the encoding of a value; a NaN takes its sign and payload from draw number `n` (U1). -/
def bits (F : Prec) (n : Nat) : FVal → Nat
  | .nan => nanBits F (Config.freeNaN n)
  | .inf s => signBits F s + expOnes F
  | .fin s m => signBits F s + magBits F m

/-- `val_S` of a register word (R33, R34). -/
def valS (w : Word) : FVal := val .s w.toNat

/-- `bits_S` as a register word. -/
def bitsS (n : Nat) (x : FVal) : Word := BitVec.ofNat 32 (bits .s n x)

/-- The value of a container in format `F` (R39, R202): `S` ignores bits 63:32. -/
def loadContainer (F : Prec) (c : Container) : FVal := val F (c.toNat % 2 ^ F.width)

/-- `store_F` (R202, R228): the container of a result, `zext_64(bits_S(y))` or `bits_D(y)`. -/
def storeContainer (F : Prec) (n : Nat) (y : FVal) : Container := BitVec.ofNat 64 (bits F n y)

/-- `u8tof(b)` (R12): a byte converted exactly to format `S`, as its encoding. -/
def u8tof (b : Byte) : Word := BitVec.ofNat 32 (magBits .s (b.toNat * 2 ^ Prec.s.unitExp))

/-- `clampbyte(x)` (R169): 0 below 0, 255 above 255, else the floor; for a NaN the drawn byte `nanByte` (U2). -/
def clampByte (nanByte : Byte) : FVal → Byte
  | .nan => nanByte
  | .inf s => if s then 0 else 255
  | .fin s m =>
    if s then 0
    else if 255 * 2 ^ Prec.s.unitExp < m then 255
    else BitVec.ofNat 8 (m / 2 ^ Prec.s.unitExp)

end Sys2Proof
end

