-- ==== Sys2Proof/Machine/Rom.lean ====
section
/-! DEFINITION. The COS ROM and the normalisation constants of 43_rom_tables.md, as the encodings the spec prints. They are
constants, not state (R42, R312; log 20). -/

namespace Sys2Proof

/-- Table R254 in format `S`: entry `m` of row `n` is `T_S(n, m)`, `0 ≤ m ≤ 2n`. -/
def cosRowS : Nat → List Nat
  | 1 => [0x3F800000, 0x00000000, 0xBF800000]
  | 2 => [0x3F800000, 0x3F3504F3, 0x00000000, 0xBF3504F3, 0xBF800000]
  | 3 => [0x3F800000, 0x3F5DB3D7, 0x3F000000, 0x00000000, 0xBF000000, 0xBF5DB3D7, 0xBF800000]
  | 4 => [0x3F800000, 0x3F6C835E, 0x3F3504F3, 0x3EC3EF15, 0x00000000, 0xBEC3EF15, 0xBF3504F3, 0xBF6C835E, 0xBF800000]
  | 5 => [0x3F800000, 0x3F737871, 0x3F4F1BBD, 0x3F167918, 0x3E9E377A, 0x00000000, 0xBE9E377A, 0xBF167918, 0xBF4F1BBD,
      0xBF737871, 0xBF800000]
  | 6 => [0x3F800000, 0x3F7746EA, 0x3F5DB3D7, 0x3F3504F3, 0x3F000000, 0x3E8483EE, 0x00000000, 0xBE8483EE, 0xBF000000,
      0xBF3504F3, 0xBF5DB3D7, 0xBF7746EA, 0xBF800000]
  | 7 => [0x3F800000, 0x3F7994E0, 0x3F66A5E5, 0x3F48261C, 0x3F1F9D07, 0x3EDE2602, 0x3E63DC87, 0x00000000, 0xBE63DC87,
      0xBEDE2602, 0xBF1F9D07, 0xBF48261C, 0xBF66A5E5, 0xBF7994E0, 0xBF800000]
  | 8 => [0x3F800000, 0x3F7B14BE, 0x3F6C835E, 0x3F54DB31, 0x3F3504F3, 0x3F0E39DA, 0x3EC3EF15, 0x3E47C5C2, 0x00000000,
      0xBE47C5C2, 0xBEC3EF15, 0xBF0E39DA, 0xBF3504F3, 0xBF54DB31, 0xBF6C835E, 0xBF7B14BE, 0xBF800000]
  | _ => []

/-- Table R254 in format `D`: entry `m` of row `n` is `T_D(n, m)`, `0 ≤ m ≤ 2n`. -/
def cosRowD : Nat → List Nat
  | 1 => [0x3FF0000000000000, 0x0000000000000000, 0xBFF0000000000000]
  | 2 => [0x3FF0000000000000, 0x3FE6A09E667F3BCD, 0x0000000000000000, 0xBFE6A09E667F3BCD, 0xBFF0000000000000]
  | 3 => [0x3FF0000000000000, 0x3FEBB67AE8584CAA, 0x3FE0000000000000, 0x0000000000000000, 0xBFE0000000000000,
      0xBFEBB67AE8584CAA, 0xBFF0000000000000]
  | 4 => [0x3FF0000000000000, 0x3FED906BCF328D46, 0x3FE6A09E667F3BCD, 0x3FD87DE2A6AEA963, 0x0000000000000000,
      0xBFD87DE2A6AEA963, 0xBFE6A09E667F3BCD, 0xBFED906BCF328D46, 0xBFF0000000000000]
  | 5 => [0x3FF0000000000000, 0x3FEE6F0E134454FF, 0x3FE9E3779B97F4A8, 0x3FE2CF2304755A5E, 0x3FD3C6EF372FE950,
      0x0000000000000000, 0xBFD3C6EF372FE950, 0xBFE2CF2304755A5E, 0xBFE9E3779B97F4A8, 0xBFEE6F0E134454FF,
      0xBFF0000000000000]
  | 6 => [0x3FF0000000000000, 0x3FEEE8DD4748BF15, 0x3FEBB67AE8584CAA, 0x3FE6A09E667F3BCD, 0x3FE0000000000000,
      0x3FD0907DC1930690, 0x0000000000000000, 0xBFD0907DC1930690, 0xBFE0000000000000, 0xBFE6A09E667F3BCD,
      0xBFEBB67AE8584CAA, 0xBFEEE8DD4748BF15, 0xBFF0000000000000]
  | 7 => [0x3FF0000000000000, 0x3FEF329C0558E969, 0x3FECD4BCA9CB5C71, 0x3FE904C37505DE4B, 0x3FE3F3A0E28BEDD1,
      0x3FDBC4C04D71ABC1, 0x3FCC7B90E3024582, 0x0000000000000000, 0xBFCC7B90E3024582, 0xBFDBC4C04D71ABC1,
      0xBFE3F3A0E28BEDD1, 0xBFE904C37505DE4B, 0xBFECD4BCA9CB5C71, 0xBFEF329C0558E969, 0xBFF0000000000000]
  | 8 => [0x3FF0000000000000, 0x3FEF6297CFF75CB0, 0x3FED906BCF328D46, 0x3FEA9B66290EA1A3, 0x3FE6A09E667F3BCD,
      0x3FE1C73B39AE68C8, 0x3FD87DE2A6AEA963, 0x3FC8F8B83C69A60B, 0x0000000000000000, 0xBFC8F8B83C69A60B,
      0xBFD87DE2A6AEA963, 0xBFE1C73B39AE68C8, 0xBFE6A09E667F3BCD, 0xBFEA9B66290EA1A3, 0xBFED906BCF328D46,
      0xBFEF6297CFF75CB0, 0xBFF0000000000000]
  | _ => []

/-- `T_F(n, m)` as an encoding (R250, R254). -/
def cosTable (F : Prec) (n m : Nat) : Nat :=
  match F with
  | .s => (cosRowS n).getD m 0
  | .d => (cosRowD n).getD m 0

/-- The fold of R250: `m0 = ((2k+1)*i) mod 4n`, then `m = m0` if `m0 ≤ 2n`, else `4n - m0`. -/
def cosIndex (n k i : Nat) : Nat :=
  if (2 * k + 1) * i % (4 * n) ≤ 2 * n then (2 * k + 1) * i % (4 * n) else 4 * n - (2 * k + 1) * i % (4 * n)

/-- `COS_F(n, k, i) = RN_F(cos((2k+1)*i*π/(2n)))` (R250). -/
def cosRom (F : Prec) (n k i : Nat) : FVal := val F (cosTable F n (cosIndex n k i))

/-- Table R255, column `CN_F(n, 0) = RN_F(sqrt(1/n))`. -/
def cnZero : Prec → Nat → Nat
  | .s, n => [0x3F800000, 0x3F3504F3, 0x3F13CD3A, 0x3F000000, 0x3EE4F92E, 0x3ED105EC, 0x3EC1848F, 0x3EB504F3].getD (n - 1) 0
  | .d, n => [0x3FF0000000000000, 0x3FE6A09E667F3BCD, 0x3FE279A74590331C, 0x3FE0000000000000, 0x3FDC9F25C5BFEDD9,
      0x3FDA20BD700C2C3E, 0x3FD83091E6A7F7E7, 0x3FD6A09E667F3BCD].getD (n - 1) 0

/-- Table R255, column `CN_F(n, i) = RN_F(sqrt(2/n))` for `i ≥ 1`. -/
def cnOther : Prec → Nat → Nat
  | .s, n => [0x3FB504F3, 0x3F800000, 0x3F5105EC, 0x3F3504F3, 0x3F21E89B, 0x3F13CD3A, 0x3F08D677, 0x3F000000].getD (n - 1) 0
  | .d, n => [0x3FF6A09E667F3BCD, 0x3FF0000000000000, 0x3FEA20BD700C2C3E, 0x3FE6A09E667F3BCD, 0x3FE43D136248490F,
      0x3FE279A74590331C, 0x3FE11ACEE560242A, 0x3FE0000000000000].getD (n - 1) 0

/-- `CN_F(n, i)`, Formulation A's normalisation (R251). -/
def cnRom (F : Prec) (n i : Nat) : FVal := val F (if i = 0 then cnZero F n else cnOther F n)

/-- `ALPHA_F(u)`, Formulation B's `Alpha` (R252). -/
def alphaRom (F : Prec) (u : Nat) : FVal :=
  if u = 0 then
    match F with
    | .s => val .s 0x3F3504F3
    | .d => val .d 0x3FE6A09E667F3BCD
  else FVal.ofNat F 1

/-- `BETA_F(H, W) = fadd_F(fdiv_F(1, W), fdiv_F(1, H))`, computed when the command runs (R253). -/
def beta (F : Prec) (h w : Nat) : FVal :=
  fadd F (fdiv F (FVal.ofNat F 1) (FVal.ofNat F w)) (fdiv F (FVal.ofNat F 1) (FVal.ofNat F h))

end Sys2Proof
end

