-- ==== Sys2Proof/Machine/Ops.lean ====
section
/-! DEFINITION. The named operations over registers, grids, the Matrix and raster memory, and the two ends of a command:
completing, and raising an error (R274), which is CORE's only exception (R270). There is nothing to return from (R277). -/

namespace Sys2Proof.Machine

/-! ### Sparse lists: keys strictly rising, no entry equal to the default -/

/-- The entry of key `k`, `d` when it is not listed. -/
def sparseGet {α : Type} (d : α) : List (Nat × α) → Nat → α
  | [], _ => d
  | (k', v') :: m, k => if k = k' then v' else sparseGet d m k

/-- The list with the entry of key `k` set to `v`; an entry equal to `d` is removed. -/
def sparseSet {α : Type} [DecidableEq α] (d : α) : List (Nat × α) → Nat → α → List (Nat × α)
  | [], k, v => if v = d then [] else [(k, v)]
  | (k', v') :: m, k, v =>
    if k < k' then (if v = d then (k', v') :: m else (k, v) :: (k', v') :: m)
    else if k = k' then (if v = d then m else (k, v) :: m)
    else (k', v') :: sparseSet d m k v

/-- The canonical form of a sparse list with keys below `bound`. -/
abbrev sparseWf {α : Type} (d : α) (bound : Nat) (m : List (Nat × α)) : Prop :=
  m.Pairwise (fun x y => x.1 < y.1) ∧ ∀ e ∈ m, e.1 < bound ∧ e.2 ≠ d

/-! ### Raster memory -/

/-- What an unlisted raster byte reads as (DESIGN CHOICE, log 4). -/
def Memory.unlisted : Byte := 0

/-- The canonical form of raster memory (R72): addresses strictly rising, below 2^32, no unlisted value listed. -/
abbrev Memory.wf (m : Memory) : Prop := sparseWf Memory.unlisted (2 ^ 32) m

/-- `MemRead(addr, 1)` (R9, R74). -/
def Memory.read (m : Memory) (addr : Nat) : Byte := sparseGet Memory.unlisted m addr

/-- `MemWrite(addr, 1, v)` (R9, R74). -/
def Memory.write (m : Memory) (addr : Nat) (v : Byte) : Memory := sparseSet Memory.unlisted m addr v

/-- The byte writes of a list, first to last: the last write to an address wins (R78). -/
def Memory.writeAll (m : Memory) (l : List (Nat × Byte)) : Memory := l.foldl (fun m e => m.write e.1 e.2) m

/-! ### The Matrix -/

/-- The linear index of cell `(row, col)` in a Matrix `width` cells wide (R38). -/
def linearIndex (width row col : Nat) : Nat := row * width + col

/-- `MAT[row][col]` (R38). -/
def PixelMatrix.cell (m : PixelMatrix) (row col : Nat) : Pixel :=
  sparseGet Pixel.black m.cells (linearIndex m.width.toNat row col)

/-- `MAT[row][col] <- p` (R38). -/
def PixelMatrix.setCell (m : PixelMatrix) (row col : Nat) (p : Pixel) : PixelMatrix :=
  { m with cells := sparseSet Pixel.black m.cells (linearIndex m.width.toNat row col) p }

/-- A Matrix of the padded size of `h × w`, every cell Black (R161, R164). -/
def PixelMatrix.new (h w : Nat) : PixelMatrix :=
  { height := BitVec.ofNat 32 (pad8 h), width := BitVec.ofNat 32 (pad8 w), cells := [] }

/-! ### Grids -/

/-- The container `(a, b)` of a grid (R39..R41). -/
def Grid.get (g : Grid) (a b : Nat) : Container := g.toArray.toList.getD (Config.nmax * a + b) 0

/-- The grid with container `(a, b)` replaced. -/
def Grid.put (g : Grid) (a b : Nat) (c : Container) : Grid :=
  { toArray := { toList := g.toArray.toList.set (Config.nmax * a + b) c }, size_toArray := by simp }

/-- The grid whose container `(a, b)` is `f a b`. -/
def Grid.build (f : Nat → Nat → Container) : Grid :=
  { toArray := { toList := (gridCells Config.nmax Config.nmax).map fun ab => f ab.1 ab.2 },
    size_toArray := by simp [gridCells, Config.nmax] }

/-- The containers written one after another in the order given, each with the value of its cell (R211, R212). -/
def Grid.putAll (cell : Nat → Nat → Container) (order : List (Nat × Nat)) (g : Grid) : Grid :=
  order.foldl (fun g ab => g.put ab.1 ab.2 (cell ab.1 ab.2)) g

/-- Every container outside the `W × H` corner set to 0 (R217). -/
def Grid.clearOutside (W H : Nat) (g : Grid) : Grid :=
  Grid.build fun a b => if a < W ∧ b < H then g.get a b else 0

/-! ### Writes to the state -/

/-- `PX[n] <- p` (R37). -/
def State.setPx (s : State) (n : Fin 4) (p : Pixel) : State := { s with px := s.px.set n p }

/-- `RES <- w` (R34). -/
def State.setRes (s : State) (w : Word) : State := { s with res := w }

/-- The block buffer replaced. -/
def State.setMat (s : State) (m : PixelMatrix) : State := { s with mat := m }

/-- `GIN` replaced. -/
def State.setGin (s : State) (g : Grid) : State := { s with gin := g }

/-- `GOUT` replaced. -/
def State.setGout (s : State) (g : Grid) : State := { s with gout := g }

/-- Raster memory replaced. -/
def State.setRaster (s : State) (m : Memory) : State := { s with raster := m }

/-- The operand registers replaced. -/
def State.setOpnd (s : State) (o : OperandRegs) : State := { s with opnd := o }

/-- The status registers replaced. -/
def State.setStat (s : State) (r : StatusRegs) : State := { s with stat := r }

/-- `n` draws of free values used up (log 7). -/
def State.draw (s : State) (n : Nat) : State := { s with draws := s.draws + n }

/-- The events still to come replaced. -/
def State.setHost (s : State) (h : List HostEvent) : State := { s with host := h }

/-- The word an `rd` returned, recorded (log 15). -/
def State.logRead (s : State) (w : Word) : State := { s with reads := w :: s.reads }

/-! ### The two ends of a command -/

/-- A command that completes: `LASTERR <- 0` and `CMDCNT <- (CMDCNT + 1) mod 2^32` (R101, R274; log 19). -/
def State.complete (s : State) : State := s.setStat s.stat.completed

/-- TAKING AN ERROR, CORE's only exception (R270, R274): exactly `CMDCNT`, `LASTERR`, `STICKY`, `ERRA` and `ERRB` are written.
No state is saved, no mode changes, control goes nowhere (R275). -/
def State.raiseError (s : State) (e : CommandError) : State := s.setStat (s.stat.raised e)

/-- The outcome of a command that started in `s` and either produced all its writes or failed a check (R101, R274): a raising
command takes effect on `s` itself, so nothing else of it remains. -/
def State.conclude (s : State) : Except CommandError State → Host.Outcome State Fault Refusal
  | .ok t => .next t.complete
  | .error e => .next (s.raiseError e)

/-- Reset (R310): CORE's state is the reset state; raster memory, the platform and the host are not touched. -/
def State.applyReset (s : State) : State := State.afterReset s.plat s.raster s.host s.reads s.draws

end Sys2Proof.Machine
end

