-- ==== Sys2Proof/Machine/Csc.lean ====
section
/-! DEFINITION. The Pixel commands (40_pixel_csc.md): `PXNEW` and the six accessors of the colour-space converter. -/

namespace Sys2Proof.Machine

/-- The six channels of a Pixel (R130). -/
inductive Channel where
  | r
  | g
  | b
  | y
  | cb
  | cr
  deriving DecidableEq, Repr

/-- `Y` of an Additive Pixel (R133), from `R, G, B`. -/
def deriveY (r g b : FVal) : FVal :=
  fadd .s (valS 0x41800000)
    (fdiv .s
      (fadd .s (fadd .s (fmul .s (valS 0x428379DB) r) (fmul .s (valS 0x43010E98) g)) (fmul .s (valS 0x41C08312) b))
      (valS 0x43800000))

/-- `Cb` of an Additive Pixel (R133); the first constant is `-K(37.945)`. -/
def deriveCb (r g b : FVal) : FVal :=
  fadd .s (valS 0x43000000)
    (fdiv .s
      (fadd .s (fsub .s (fmul .s (valS 0xC217C7AE) r) (fmul .s (valS 0x4294FCEE) g)) (fmul .s (valS 0x42E0E0C5) b))
      (valS 0x43800000))

/-- `Cr` of an Additive Pixel (R133). -/
def deriveCr (r g b : FVal) : FVal :=
  fadd .s (valS 0x43000000)
    (fdiv .s
      (fsub .s (fsub .s (fmul .s (valS 0x42E0E0C5) r) (fmul .s (valS 0x42BC4ED9) g)) (fmul .s (valS 0x419247AE) b))
      (valS 0x43800000))

/-- `R` of a LumaChroma Pixel (R133), from `Y` and `Cr`. -/
def deriveR (y cr : FVal) : FVal :=
  fsub .s
    (fdiv .s (fadd .s (fmul .s (valS 0x43950A7F) y) (fmul .s (valS 0x43CC4AA0) cr)) (valS 0x43800000))
    (valS 0x435EEBC7)

/-- `G` of a LumaChroma Pixel (R133), from `Y`, `Cb` and `Cr`. -/
def deriveG (y cb cr : FVal) : FVal :=
  fadd .s
    (fdiv .s
      (fsub .s (fsub .s (fmul .s (valS 0x43950A7F) y) (fmul .s (valS 0x42C894FE) cb)) (fmul .s (valS 0x43501EB8) cr))
      (valS 0x43800000))
    (valS 0x43079375)

/-- `B` of a LumaChroma Pixel (R133), from `Y` and `Cb`. -/
def deriveB (y cb : FVal) : FVal :=
  fsub .s
    (fdiv .s (fadd .s (fmul .s (valS 0x43950A7F) y) (fmul .s (valS 0x44011A5E) cb)) (valS 0x43800000))
    (valS 0x438A6B02)

/-- A channel of a Pixel as an encoding (R132, R133): a raw channel is returned bit for bit; a derived one is computed, and
if it is a NaN its sign and payload are draw number `n` (R143). -/
def Pixel.channelBits (p : Pixel) (n : Nat) (ch : Channel) : Word :=
  match p.tag, ch with
  | .additive, .r => p.c1
  | .additive, .g => p.c2
  | .additive, .b => p.c3
  | .additive, .y => bitsS n (deriveY (valS p.c1) (valS p.c2) (valS p.c3))
  | .additive, .cb => bitsS n (deriveCb (valS p.c1) (valS p.c2) (valS p.c3))
  | .additive, .cr => bitsS n (deriveCr (valS p.c1) (valS p.c2) (valS p.c3))
  | .lumaChroma, .r => bitsS n (deriveR (valS p.c1) (valS p.c3))
  | .lumaChroma, .g => bitsS n (deriveG (valS p.c1) (valS p.c2) (valS p.c3))
  | .lumaChroma, .b => bitsS n (deriveB (valS p.c1) (valS p.c2))
  | .lumaChroma, .y => p.c1
  | .lumaChroma, .cb => p.c2
  | .lumaChroma, .cr => p.c3

/-- An accessor command (R135..R140): one channel of `PX[px]` to `RES`. It cannot raise. It uses one draw. -/
def State.accessor (s : State) (ch : Channel) (px : Fin 4) : Host.Outcome State Fault Refusal :=
  s.conclude (.ok ((s.setRes ((s.px.get px).channelBits s.draws ch)).draw 1))

/-- The tag the field `fmt` selects (R104, R134): 0 Additive, 1 LumaChroma, others raise `InvalidFormat`. -/
def tagOf (fmt : Nat) : Except CommandError Tag :=
  match fmt with
  | 0 => .ok .additive
  | 1 => .ok .lumaChroma
  | n + 2 => .error (.invalidFormat (n + 2))

/-- `PXNEW px, fmt` (R134): construct a Pixel from `C1, C2, C3`, bit for bit. -/
def execPxnew (px : Fin 4) (fmt : Nat) (s : State) : Host.Outcome State Fault Refusal :=
  s.conclude do
    let tag ← tagOf fmt
    return s.setPx px { tag := tag, c1 := s.opnd.c1, c2 := s.opnd.c2, c3 := s.opnd.c3 }

/-- `PXR px` (R135). -/
def execPxr (px : Fin 4) (s : State) : Host.Outcome State Fault Refusal := s.accessor .r px

/-- `PXG px` (R136). -/
def execPxg (px : Fin 4) (s : State) : Host.Outcome State Fault Refusal := s.accessor .g px

/-- `PXB px` (R137). -/
def execPxb (px : Fin 4) (s : State) : Host.Outcome State Fault Refusal := s.accessor .b px

/-- `PXY px` (R138). -/
def execPxy (px : Fin 4) (s : State) : Host.Outcome State Fault Refusal := s.accessor .y px

/-- `PXCB px` (R139). -/
def execPxcb (px : Fin 4) (s : State) : Host.Outcome State Fault Refusal := s.accessor .cb px

/-- `PXCR px` (R140). -/
def execPxcr (px : Fin 4) (s : State) : Host.Outcome State Fault Refusal := s.accessor .cr px

end Sys2Proof.Machine
end

