-- ==== Sys2Proof/Machine/Bbuf.lean ====
section
/-! DEFINITION. The Matrix commands (41_matrix_bbuf.md): the block buffer and its two raster conversions. -/

namespace Sys2Proof.Machine

/-- `MNEW` (R164): a Black Matrix of the padded size. -/
def execMnew (s : State) : Host.Outcome State Fault Refusal :=
  s.conclude do
    checkCapacity s.plat s.opnd
    return s.setMat (PixelMatrix.new s.opnd.argh.toNat s.opnd.argw.toNat)

/-- `MGET px` (R165): a copy of the whole cell `(ROW, COL)`. -/
def execMget (px : Fin 4) (s : State) : Host.Outcome State Fault Refusal :=
  s.conclude do
    checkInside s.mat s.opnd
    return s.setPx px (s.mat.cell s.opnd.row.toNat s.opnd.col.toNat)

/-- `MSET px` (R166): the cell `(ROW, COL)` replaced. -/
def execMset (px : Fin 4) (s : State) : Host.Outcome State Fault Refusal :=
  s.conclude do
    checkInside s.mat s.opnd
    return s.setMat (s.mat.setCell s.opnd.row.toNat s.opnd.col.toNat (s.px.get px))

/-- The Additive Pixel of the raster pixel at row `r`, column `c` (R167): byte 0 is R, byte 1 G, byte 2 B. -/
def rasterPixel (m : Memory) (o : OperandRegs) (r c : Nat) : Pixel :=
  { tag := .additive, c1 := u8tof (m.read (rasterAddr o r c 0)), c2 := u8tof (m.read (rasterAddr o r c 1)),
    c3 := u8tof (m.read (rasterAddr o r c 2)) }

/-- The Matrix that `MFRR` builds (R167): Black, then every raster pixel stored at its own row and column. -/
def matrixFromRaster (m : Memory) (o : OperandRegs) : PixelMatrix :=
  (rasterPixels o.argh.toNat o.argw.toNat).foldl (fun x rc => x.setCell rc.1 rc.2 (rasterPixel m o rc.1 rc.2))
    (PixelMatrix.new o.argh.toNat o.argw.toNat)

/-- `MFRR` (R167): build the Matrix from a raster; capacity first, then the footprint. -/
def execMfrr (s : State) : Host.Outcome State Fault Refusal :=
  s.conclude do
    checkCapacity s.plat s.opnd
    checkFootprint s.plat .rd s.opnd
    return s.setMat (matrixFromRaster s.raster s.opnd)

/-- The channel that byte `b` of a pixel holds (R70): R, G, B. -/
def channelOfByte (b : Nat) : Channel :=
  match b with
  | 0 => .r
  | 1 => .g
  | _ => .b

/-- The draw a byte of the raster uses, numbered in access order from the state's counter (log 7). -/
def State.byteDraw (s : State) (p : RasterPoint) : Nat :=
  s.draws + (3 * (p.row * s.opnd.argw.toNat + p.col) + p.byte)

/-- The byte `MTOR` exports at a point of the raster (R168, R169): the channel's machine value, clamped. -/
def State.exportByte (s : State) (p : RasterPoint) : Byte :=
  clampByte (Config.freeNanByte (s.byteDraw p))
    (valS ((s.mat.cell p.row p.col).channelBits (s.byteDraw p) (channelOfByte p.byte)))

/-- The byte writes of `MTOR` in access order (R78, R168). -/
def State.exportWrites (s : State) : List (Nat × Byte) :=
  (rasterPoints s.opnd.argh.toNat s.opnd.argw.toNat).map fun p => (p.addr s.opnd, s.exportByte p)

/-- The number of bytes of the raster `MTOR` writes. -/
def State.exportCount (s : State) : Nat := 3 * (s.opnd.argh.toNat * s.opnd.argw.toNat)

/-- The checks of `MTOR`, in order (R168): the region, then the footprint. -/
def State.checkExport (s : State) : Except CommandError Unit := do
  checkRegion s.mat s.opnd
  checkFootprint s.plat .wr s.opnd

/-- `MTOR` (R168): export the Matrix to a raster. -/
def execMtor (s : State) : Host.Outcome State Fault Refusal :=
  s.conclude do
    s.checkExport
    return (s.setRaster (s.raster.writeAll s.exportWrites)).draw s.exportCount

end Sys2Proof.Machine
end

