-- ==== Sys2Proof/Machine/Dcte.lean ====
section
/-! DEFINITION. The transform commands (42_dct_engine.md): the cell functions of R209, evaluated in their fixed order, and the
four commands. -/

namespace Sys2Proof.Machine

/-- The input grid in format `F` (R202): `x[a][b]`. -/
def Grid.value (F : Prec) (g : Grid) (a b : Nat) : FVal := loadContainer F (g.get a b)

/-- The sum of R209: from `+0`, the terms added in ascending order of the first then the second index. -/
def gridSum (F : Prec) (W H : Nat) (term : Nat → Nat → FVal) : FVal :=
  (gridCells W H).foldl (fun acc ab => fadd F acc (term ab.1 ab.2)) FVal.zero

/-- `cellA_fwd(i, j)` (R209), for `DCTA`. -/
def cellAFwd (F : Prec) (W H : Nat) (x : Nat → Nat → FVal) (i j : Nat) : FVal :=
  fmul F (fmul F (cnRom F W i) (cnRom F H j))
    (gridSum F W H fun k l => fmul F (fmul F (x k l) (cosRom F W k i)) (cosRom F H l j))

/-- `cellA_inv(k, l)` (R209), for `IDCTA`. -/
def cellAInv (F : Prec) (W H : Nat) (x : Nat → Nat → FVal) (k l : Nat) : FVal :=
  gridSum F W H fun i j =>
    fmul F (fmul F (fmul F (fmul F (cnRom F W i) (cnRom F H j)) (x i j)) (cosRom F W k i)) (cosRom F H l j)

/-- `cellB_fwd(u, v)` (R209), for `DCTB`. -/
def cellBFwd (F : Prec) (W H : Nat) (x : Nat → Nat → FVal) (u v : Nat) : FVal :=
  fmul F (fmul F (fmul F (beta F H W) (alphaRom F u)) (alphaRom F v))
    (gridSum F W H fun a b => fmul F (fmul F (x a b) (cosRom F W a u)) (cosRom F H b v))

/-- `cellB_inv(a, b)` (R209), for `IDCTB`. -/
def cellBInv (F : Prec) (W H : Nat) (x : Nat → Nat → FVal) (a b : Nat) : FVal :=
  fmul F (beta F H W)
    (gridSum F W H fun u v =>
      fmul F (fmul F (fmul F (fmul F (x u v) (cosRom F W a u)) (cosRom F H b v)) (alphaRom F u)) (alphaRom F v))

/-- The draw a container of `GOUT` uses (log 7). -/
def State.cellDraw (s : State) (a b : Nat) : Nat := s.draws + (Config.nmax * a + b)

/-- `GOUT` after the cells of a list were computed and stored in that order, and the containers outside the grid cleared
(R211, R214, R217): `cell` is the cell function with the format, the extents and the input grid filled in. -/
def State.transformed (s : State) (F : Prec) (order : List (Nat × Nat)) (cell : Nat → Nat → FVal) : State :=
  (s.setGout
    ((s.gout.putAll (fun a b => storeContainer F (s.cellDraw a b) (cell a b)) order).clearOutside
      s.opnd.gw.toNat s.opnd.gh.toNat)).draw (Config.nmax * Config.nmax)

/-- `DCTA.prec` (R220): Formulation A, forward. -/
def execDcta (prec : Prec) (s : State) : Host.Outcome State Fault Refusal :=
  s.conclude do
    checkExtentsAndParts s.opnd
    return s.transformed prec (laneOrder s.opnd.gw.toNat s.opnd.gh.toNat s.opnd.npart.toNat)
      (cellAFwd prec s.opnd.gw.toNat s.opnd.gh.toNat (s.gin.value prec))

/-- `IDCTA.prec` (R221): Formulation A, inverse. -/
def execIdcta (prec : Prec) (s : State) : Host.Outcome State Fault Refusal :=
  s.conclude do
    checkExtentsAndParts s.opnd
    return s.transformed prec (laneOrder s.opnd.gw.toNat s.opnd.gh.toNat s.opnd.npart.toNat)
      (cellAInv prec s.opnd.gw.toNat s.opnd.gh.toNat (s.gin.value prec))

/-- `DCTB.prec` (R222): Formulation B, forward, on one lane (R218). -/
def execDctb (prec : Prec) (s : State) : Host.Outcome State Fault Refusal :=
  s.conclude do
    checkExtents s.opnd
    return s.transformed prec (gridCells s.opnd.gw.toNat s.opnd.gh.toNat)
      (cellBFwd prec s.opnd.gw.toNat s.opnd.gh.toNat (s.gin.value prec))

/-- `IDCTB.prec` (R223): Formulation B, inverse, on one lane (R218). -/
def execIdctb (prec : Prec) (s : State) : Host.Outcome State Fault Refusal :=
  s.conclude do
    checkExtents s.opnd
    return s.transformed prec (gridCells s.opnd.gw.toNat s.opnd.gh.toNat)
      (cellBInv prec s.opnd.gw.toNat s.opnd.gh.toNat (s.gin.value prec))

end Sys2Proof.Machine
end

