-- ==== Sys2Proof/Machine/System.lean ====
section
/-! DEFINITION. The system commands (44_system_commands.md). -/

namespace Sys2Proof.Machine

/-- `NOP` (R260): nothing but the common flags. -/
def execNop (s : State) : Host.Outcome State Fault Refusal := s.conclude (.ok s)

/-- `ERRCLR` (R261): `STATUS.STICKY <- 0`; `ERRA`, `ERRB` stay. -/
def execErrclr (s : State) : Host.Outcome State Fault Refusal := s.conclude (.ok (s.setStat s.stat.clearSticky))

/-- `GMOV` (R262): all 64 containers of `GOUT` to `GIN`, bit for bit. -/
def execGmov (s : State) : Host.Outcome State Fault Refusal := s.conclude (.ok (s.setGin s.gout))

end Sys2Proof.Machine
end

