-- ==== Sys2Proof/Machine/Dispatch.lean ====
section
/-! DEFINITION. What each command does: one arm per constructor of `Instr`. -/

namespace Sys2Proof.Machine

def exec (i : Instr) (s : State) : Host.Outcome State Fault Refusal :=
  match i with
  | .nop => Sys2Proof.Machine.execNop s
  | .errclr => Sys2Proof.Machine.execErrclr s
  | .pxnew px fmt => Sys2Proof.Machine.execPxnew px fmt s
  | .pxr px => Sys2Proof.Machine.execPxr px s
  | .pxg px => Sys2Proof.Machine.execPxg px s
  | .pxb px => Sys2Proof.Machine.execPxb px s
  | .pxy px => Sys2Proof.Machine.execPxy px s
  | .pxcb px => Sys2Proof.Machine.execPxcb px s
  | .pxcr px => Sys2Proof.Machine.execPxcr px s
  | .mnew => Sys2Proof.Machine.execMnew s
  | .mget px => Sys2Proof.Machine.execMget px s
  | .mset px => Sys2Proof.Machine.execMset px s
  | .mfrr => Sys2Proof.Machine.execMfrr s
  | .mtor => Sys2Proof.Machine.execMtor s
  | .dcta prec => Sys2Proof.Machine.execDcta prec s
  | .idcta prec => Sys2Proof.Machine.execIdcta prec s
  | .dctb prec => Sys2Proof.Machine.execDctb prec s
  | .idctb prec => Sys2Proof.Machine.execIdctb prec s
  | .gmov => Sys2Proof.Machine.execGmov s

end Sys2Proof.Machine
end

