-- ==== Sys2Proof/Machine/HostBus.lean ====
section
/-! DEFINITION. The register space as the host sees it (R21..R47): the map, what a read returns, what a write stores. -/

namespace Sys2Proof.Machine

/-- The registers of R21, in the order of their offsets. -/
inductive HostReg where
  | id
  | cmd
  | status
  | errA
  | errB
  | cmdCnt
  | npart
  | gw
  | gh
  | argh
  | argw
  | row
  | col
  | rbase
  | rstride
  | c1
  | c2
  | c3
  | res
  | mh
  | mw
  | caps
  | matcapr
  deriving DecidableEq, Repr

/-- The offset of a register (R21). -/
def HostReg.offset : HostReg → Offset
  | .id => 0x000000
  | .cmd => 0x000004
  | .status => 0x000008
  | .errA => 0x00000C
  | .errB => 0x000010
  | .cmdCnt => 0x000014
  | .npart => 0x000018
  | .gw => 0x00001C
  | .gh => 0x000020
  | .argh => 0x000024
  | .argw => 0x000028
  | .row => 0x00002C
  | .col => 0x000030
  | .rbase => 0x000034
  | .rstride => 0x000038
  | .c1 => 0x00003C
  | .c2 => 0x000040
  | .c3 => 0x000044
  | .res => 0x000048
  | .mh => 0x00004C
  | .mw => 0x000050
  | .caps => 0x000054
  | .matcapr => 0x000058

/-- All the registers of R21. -/
def HostReg.all : List HostReg :=
  [.id, .cmd, .status, .errA, .errB, .cmdCnt, .npart, .gw, .gh, .argh, .argw, .row, .col, .rbase, .rstride, .c1, .c2, .c3,
    .res, .mh, .mw, .caps, .matcapr]

/-- The byte offset of container `(a, b)` in a grid window (R41): `8 * (a * NMAX + b)`. -/
def containerOffset (a b : Nat) : Nat := 8 * (a * Config.nmax + b)

/-- The size of a grid window in bytes (R21). -/
def windowBytes : Nat := 8 * Config.nmax * Config.nmax

/-- The first offset of the `GIN` window (R21). -/
def ginBase : Nat := 0x100000

/-- The first offset of the `GOUT` window (R21). -/
def goutBase : Nat := 0x200000

/-- What an aligned offset addresses (R21, R41, R47): a register, the low or high word of a grid container, or nothing. -/
inductive BusTarget where
  | reg (r : HostReg)
  | gin (a b : Nat) (high : Bool)
  | gout (a b : Nat) (high : Bool)
  | undefined
  deriving DecidableEq, Repr

/-- The map of R21 and R41 for an offset that is a multiple of 4. -/
def busTarget (off : Offset) : BusTarget :=
  match HostReg.all.find? fun r => r.offset == off with
  | some r => .reg r
  | none =>
    if ginBase ≤ off.toNat ∧ off.toNat < ginBase + windowBytes then
      .gin ((off.toNat - ginBase) / 8 / Config.nmax) ((off.toNat - ginBase) / 8 % Config.nmax) (decide ((off.toNat - ginBase) % 8 = 4))
    else if goutBase ≤ off.toNat ∧ off.toNat < goutBase + windowBytes then
      .gout ((off.toNat - goutBase) / 8 / Config.nmax) ((off.toNat - goutBase) / 8 % Config.nmax) (decide ((off.toNat - goutBase) % 8 = 4))
    else .undefined

/-- The word `CAPS` reads (R36): `{NPX, BS, PMAX, NMAX}`. -/
def capsWord (p : Platform) : Word :=
  BitVec.ofNat 8 Config.npx ++ BitVec.ofNat 8 Config.bs ++ BitVec.ofNat 8 p.pmax ++ BitVec.ofNat 8 Config.nmax

/-- The value a register reads (R22..R36). `CMD` holds nothing and reads 0 (R23). -/
def State.readReg (s : State) : HostReg → Word
  | .id => Config.idWord
  | .cmd => 0
  | .status => s.stat.word
  | .errA => s.stat.errA
  | .errB => s.stat.errB
  | .cmdCnt => s.stat.cmdCnt
  | .npart => s.opnd.npart
  | .gw => s.opnd.gw
  | .gh => s.opnd.gh
  | .argh => s.opnd.argh
  | .argw => s.opnd.argw
  | .row => s.opnd.row
  | .col => s.opnd.col
  | .rbase => s.opnd.rbase
  | .rstride => s.opnd.rstride
  | .c1 => s.opnd.c1
  | .c2 => s.opnd.c2
  | .c3 => s.opnd.c3
  | .res => s.res
  | .mh => s.mat.height
  | .mw => s.mat.width
  | .caps => capsWord s.plat
  | .matcapr => BitVec.ofNat 32 s.plat.matcap

/-- The word of a container a window access reads (R41, R77): bits 31:0 at the lower offset, bits 63:32 at that plus 4. -/
def containerWord (c : Container) (high : Bool) : Word :=
  if high then c.extractLsb' 32 32 else c.extractLsb' 0 32

/-- The container with one of its words replaced, the other unchanged (R41). -/
def setContainerWord (c : Container) (high : Bool) (v : Word) : Container :=
  if high then v ++ c.extractLsb' 0 32 else c.extractLsb' 32 32 ++ v

/-- What `rd(off)` returns at an aligned offset (R21..R47): no side effect, 0 at undefined offsets. -/
def State.busRead (s : State) (off : Offset) : Word :=
  match busTarget off with
  | .reg r => s.readReg r
  | .gin a b high => containerWord (s.gin.get a b) high
  | .gout a b high => containerWord (s.gout.get a b) high
  | .undefined => 0

/-- The operand registers after a write to a register (R28..R33); a write to a read-only register is ignored (R47). -/
def OperandRegs.write (o : OperandRegs) (r : HostReg) (v : Word) : OperandRegs :=
  match r with
  | .npart => { o with npart := v }
  | .gw => { o with gw := v }
  | .gh => { o with gh := v }
  | .argh => { o with argh := v }
  | .argw => { o with argw := v }
  | .row => { o with row := v }
  | .col => { o with col := v }
  | .rbase => { o with rbase := v }
  | .rstride => { o with rstride := v }
  | .c1 => { o with c1 := v }
  | .c2 => { o with c2 := v }
  | .c3 => { o with c3 := v }
  | .id => o
  | .cmd => o
  | .status => o
  | .errA => o
  | .errB => o
  | .cmdCnt => o
  | .res => o
  | .mh => o
  | .mw => o
  | .caps => o
  | .matcapr => o

/-- What `wr(off, v)` stores at an aligned offset other than `CMD` (R21, R41, R47): operand registers and the `GIN` window take
the value; everything else ignores it. -/
def State.busWrite (s : State) (off : Offset) (v : Word) : State :=
  match busTarget off with
  | .reg r => s.setOpnd (s.opnd.write r v)
  | .gin a b high => s.setGin (s.gin.put a b (setContainerWord (s.gin.get a b) high v))
  | .gout _ _ _ => s
  | .undefined => s

/-- A register-space access is aligned when its offset is a multiple of 4 (R76). -/
def alignedOffset (off : Offset) : Bool := decide (off.toNat % 4 = 0)

end Sys2Proof.Machine
end

