-- ==== Sys2Proof/Machine/Sequencer.lean ====
section
/-! DEFINITION. The sequencer and the host transactions (R14, R23, R101, R310): what one host event does. -/

namespace Sys2Proof.Machine

/-- `wr(CMD, w)` (R23, R101): decode and execute; a word that is no command raises `IllegalCommand(w, 0)` (R108). -/
def State.runCommand (s : State) (w : Word) : Host.Outcome State Fault Refusal :=
  match decode w with
  | .ok i => exec i s
  | .error _ => .next (s.raiseError (.illegalCommand w))

/-- `wr(off, v)` (R9, R21, R76): refused at a misaligned offset, a command at `CMD`, else a register or window write. -/
def State.hostWrite (s : State) (off : Offset) (v : Word) : Host.Outcome State Fault Refusal :=
  if alignedOffset off then
    if off = HostReg.cmd.offset then s.runCommand v else .next (s.busWrite off v)
  else .refused .misalignedAccess

/-- `rd(off)` (R9, R21, R76, R79): the word is returned to the host and nothing else changes. -/
def State.hostRead (s : State) (off : Offset) : Host.Outcome State Fault Refusal :=
  if alignedOffset off then .next (s.logRead (s.busRead off)) else .refused .misalignedAccess

/-- The raster bytes a command `w` had written when it was abandoned after `n` of them (R310): only an `MTOR` whose checks pass
writes any, in access order. -/
def State.abandonedWrites (s : State) (w : Word) (n : Nat) : List (Nat × Byte) :=
  match decode w with
  | .ok .mtor =>
    match s.checkExport with
    | .ok _ => s.exportWrites.take n
    | .error _ => []
  | _ => []

/-- Reset while `wr(CMD, w)` is in progress (R310): CORE's state is the reset state, the bytes already written stay. -/
def State.resetDuring (s : State) (w : Word) (n : Nat) : State :=
  ((s.setRaster (s.raster.writeAll (s.abandonedWrites w n))).draw s.exportCount).applyReset

/-- What one host event does (R9, R14, R45, R310). -/
def State.runEvent (s : State) : HostEvent → Host.Outcome State Fault Refusal
  | .wr off v => s.hostWrite off v
  | .rd off => s.hostRead off
  | .narrow _ _ => .refused .narrowAccess
  | .reset => .next s.applyReset
  | .resetDuring w n => .next (s.resetDuring w n)
  | .poke addr v => .next (s.setRaster (s.raster.write addr.toNat v))

end Sys2Proof.Machine
end

