-- ==== Sys2Proof/Machine/Step.lean ====
section
/-! DEFINITION. One step of the machine: the next host event (R14), or nothing while the host is silent (R290, R311). -/

namespace Sys2Proof.Machine

/-- One step: the first event of `host` is taken from the list and happens; with no event CORE is idle and holds its state. -/
def step (s : State) : Host.Outcome State Fault Refusal :=
  match s.host with
  | [] => .next s
  | e :: rest => (s.setHost rest).runEvent e

/-- The state in which the very next step writes the word `w` of `nbits` bits to `CMD`: CORE fetches no command (R43), each
arrives as the data of a `wr(CMD, w)` (R23), so the host's next event is that write (log 1). -/
def State.withFetchWord (s : State) (nbits w : Nat) : State :=
  { s with host := .wr HostReg.cmd.offset (BitVec.ofNat 32 (w % 2 ^ nbits)) :: s.host }

end Sys2Proof.Machine
end

