-- ==== Sys2Proof/Safety.lean ====
section
/-! DEFINITION. What counts as a safe state and a safe run, in the terms the claims use. -/

namespace Sys2Proof

/-- A magnitude that format `F` can hold: below the overflow bound, and with at most `fracBits + 1` significant bits (R12). -/
def Prec.holds (F : Prec) (m : Nat) : Prop :=
  m < 2 ^ F.topExp ∧ ∃ k e, k < 2 ^ (F.fracBits + 1) ∧ m = k * 2 ^ e

/-- A value of format `F`: a NaN, an infinity, or a finite value whose magnitude the format can hold (R12). -/
def FVal.ofFormat (F : Prec) : FVal → Prop
  | .nan => True
  | .inf _ => True
  | .fin _ m => F.holds m

/-- A bit pattern that encodes a NaN of format `F`: exponent all ones, fraction not zero (R228, U1). -/
def isNaNPattern (F : Prec) (v : Nat) : Prop :=
  v / 2 ^ F.fracBits % 2 ^ F.expBits = 2 ^ F.expBits - 1 ∧ v % 2 ^ F.fracBits ≠ 0

end Sys2Proof

namespace Sys2Proof.Machine

/-- The invariant of CORE: what every state a run reaches satisfies. -/
structure State.Inv (s : State) : Prop where
  /-- The parameters are in the legal ranges of R5. -/
  platform : s.plat.legal
  /-- Raster memory is in its canonical form, every address below 2^32 (R72). -/
  raster : Memory.wf s.raster
  /-- `MH mod 8 = 0` (R35). -/
  heightPadded : s.mat.height.toNat % Config.bs = 0
  /-- `MW mod 8 = 0` (R35). -/
  widthPadded : s.mat.width.toNat % Config.bs = 0
  /-- `MH * MW ≤ MATCAP` (R35). -/
  capacity : s.mat.height.toNat * s.mat.width.toNat ≤ s.plat.matcap
  /-- The Matrix has no cell outside its bounds (R38), and its list is in canonical form. -/
  cells : sparseWf Pixel.black (s.mat.height.toNat * s.mat.width.toNat) s.mat.cells
  /-- `LASTERR` is 0 or a code of R271; the others "are never produced". -/
  codes : s.stat.lastErr ∈ [0x00#8, 0x01#8, 0x02#8, 0x10#8, 0x11#8, 0x12#8]
  /-- A command that raised left `STICKY` set (R24, R274). -/
  sticky : s.stat.lastErr ≠ 0 → s.stat.sticky = true

/-- The events a host that keeps to the spec issues: aligned 32-bit register accesses only (R76). Nothing else is refused. -/
def HostEvent.admissible : HostEvent → Bool
  | .wr off _ => alignedOffset off
  | .rd off => alignedOffset off
  | .narrow _ _ => false
  | .reset => true
  | .resetDuring _ _ => true
  | .poke _ _ => true

/-- A state from which a run to the end of the host's events stops nowhere. -/
def State.safe (s : State) : Prop := ∀ e ∈ s.host, HostEvent.admissible e = true

end Sys2Proof.Machine
end

