-- ==== Sys2Proof/Certificates/Slice0/Obligations.lean ====
section
/-! DEFINITION. The statements for the provers: what the numbered rules of spec/ say CORE does. The words of the rules are
written out again in `Sys2Proof.Claims`, apart from the model's own operations, so that a statement says more than the
definition it is about. -/

namespace Sys2Proof.Claims
open Sys2Proof.Machine

/-! ### Words of the rules -/

/-- The flags of a command that completes (R101, R274): `LASTERR` 0, `CMDCNT` one more. -/
def done (r : StatusRegs) : StatusRegs := { r with lastErr := 0, cmdCnt := r.cmdCnt + 1 }

/-- The five writes of a command that raises (R274). -/
def failed (r : StatusRegs) (code : BitVec 8) (a b : Word) : StatusRegs :=
  { lastErr := code, sticky := true, errA := a, errB := b, cmdCnt := r.cmdCnt + 1 }

/-- The start state of a raising command with those writes: nothing else changes (R274). -/
def raises (s : State) (code : BitVec 8) (a b : Word) : Host.Outcome State Fault Refusal :=
  .next { s with stat := failed s.stat code a b }

/-- The rows of spec/opcode_table.json, as `(mask, match)`. -/
def opcodeRows : List (Word × Word) :=
  [(0xFFFFFFFF, 0x00), (0xFFFFFFFF, 0x01), (0xFF00FCFF, 0x10), (0xFFFFFCFF, 0x11), (0xFFFFFCFF, 0x12), (0xFFFFFCFF, 0x13),
    (0xFFFFFCFF, 0x14), (0xFFFFFCFF, 0x15), (0xFFFFFCFF, 0x16), (0xFFFFFFFF, 0x20), (0xFFFFFCFF, 0x21), (0xFFFFFCFF, 0x22),
    (0xFFFFFFFF, 0x23), (0xFFFFFFFF, 0x24), (0xFFFFFEFF, 0x30), (0xFFFFFEFF, 0x31), (0xFFFFFEFF, 0x32), (0xFFFFFEFF, 0x33),
    (0xFFFFFFFF, 0x38)]

/-- The operand registers and the `GIN` window: the read-write offsets of R21, for `NMAX = 8`. -/
def writable (off : Offset) : Prop :=
  (0x18 ≤ off.toNat ∧ off.toNat ≤ 0x44) ∨ (0x100000 ≤ off.toNat ∧ off.toNat < 0x100200)

/-- The operand registers after `wr(off, v)`: each field stands at its offset of R21. -/
def operandsAfter (o : OperandRegs) (off : Offset) (v : Word) : OperandRegs :=
  { npart := if off = 0x18 then v else o.npart, gw := if off = 0x1C then v else o.gw, gh := if off = 0x20 then v else o.gh,
    argh := if off = 0x24 then v else o.argh, argw := if off = 0x28 then v else o.argw, row := if off = 0x2C then v else o.row,
    col := if off = 0x30 then v else o.col, rbase := if off = 0x34 then v else o.rbase,
    rstride := if off = 0x38 then v else o.rstride, c1 := if off = 0x3C then v else o.c1, c2 := if off = 0x40 then v else o.c2,
    c3 := if off = 0x44 then v else o.c3 }

/-- The offset of the low word of container `(a, b)` in the window at `base`, for `NMAX = 8` (R41). -/
def lowWordAt (base a b : Nat) : Nat := base + 64 * a + 8 * b

/-- A container after `wr(off, v)`, when its low word stands at offset `low` and its high word at `low + 4` (R41, R77). -/
def containerAfter (c : Container) (low : Nat) (off : Offset) (v : Word) : Container :=
  if off.toNat = low then c.extractLsb' 32 32 ++ v
  else if off.toNat = low + 4 then v ++ c.extractLsb' 0 32
  else c

/-- The offsets R21 lists: the registers and the two windows, for `NMAX = 8`. -/
def listed (off : Offset) : Prop :=
  off.toNat ≤ 0x58 ∨ (0x100000 ≤ off.toNat ∧ off.toNat < 0x100200) ∨ (0x200000 ≤ off.toNat ∧ off.toNat < 0x200200)

/-- The values of R48, as the host and the commands see them. -/
def isReset (t : State) : Prop :=
  t.busRead 0x00 = 0x44435438 ∧
  (∀ off ∈ ([0x08, 0x0C, 0x10, 0x14, 0x24, 0x28, 0x2C, 0x30, 0x34, 0x38, 0x3C, 0x40, 0x44, 0x48, 0x4C, 0x50] : List Offset),
    t.busRead off = 0) ∧
  t.busRead 0x18 = BitVec.ofNat 32 t.plat.pmax ∧ t.busRead 0x1C = 8 ∧ t.busRead 0x20 = 8 ∧
  (t.plat.legal → (t.busRead 0x54).toNat = 8 + t.plat.pmax * 2 ^ 8 + 8 * 2 ^ 16 + 4 * 2 ^ 24 ∧
    (t.busRead 0x58).toNat = t.plat.matcap) ∧
  (∀ n, t.px.get n = { tag := .additive, c1 := 0, c2 := 0, c3 := 0 }) ∧ t.mat.cells = [] ∧
  ∀ a b, a < 8 → b < 8 → t.gin.get a b = 0 ∧ t.gout.get a b = 0

/-- `pad8` of R6. -/
def padded (n : Nat) : Nat := (n + 7) / 8 * 8

/-- The capacity condition of R163 for `ARGH × ARGW`. -/
def fits (s : State) : Prop :=
  padded s.opnd.argh.toNat < 2 ^ 32 ∧ padded s.opnd.argw.toNat < 2 ^ 32 ∧
    padded s.opnd.argh.toNat * padded s.opnd.argw.toNat ≤ s.plat.matcap

/-- `RA(r, c, b)` of R71. -/
def addr (s : State) (r c b : Nat) : Nat := s.opnd.rbase.toNat + r * s.opnd.rstride.toNat + 3 * c + b

/-- The footprint of R73 in the access order of R78. -/
def region (s : State) : List Nat :=
  (List.range s.opnd.argh.toNat).flatMap fun r => (List.range s.opnd.argw.toNat).flatMap fun c =>
    (List.range 3).map fun b => addr s r c b

/-- The bytes `(r, c, b)` of the footprint in the access order of R78. -/
def points (s : State) : List (Nat × Nat × Nat) :=
  (List.range s.opnd.argh.toNat).flatMap fun r => (List.range s.opnd.argw.toNat).flatMap fun c =>
    (List.range 3).map fun b => (r, c, b)

/-- An address of the raster space (R72) that `RasterAdmit` admits (R73). -/
def mayAccess (s : State) (dir : Dir) (a : Nat) : Prop := a < 2 ^ 32 ∧ rasterAdmit s.plat dir a = true

/-- The first byte of the footprint, in access order, that may not be accessed (R73). -/
def firstFailing (s : State) (dir : Dir) (a : Nat) : Prop :=
  ∃ before after, region s = before ++ a :: after ∧ (∀ x ∈ before, mayAccess s dir x) ∧ ¬mayAccess s dir a

/-- A region `MTOR` may export (R168): empty, or inside the Matrix. -/
def regionFits (s : State) : Prop :=
  s.opnd.argh.toNat = 0 ∨ s.opnd.argw.toNat = 0 ∨
    (s.opnd.argh.toNat ≤ s.mat.height.toNat ∧ s.opnd.argw.toNat ≤ s.mat.width.toNat)

/-- `ERRB` of a `BusFault` (R272). -/
def busInfo (write : Bool) (a : Nat) : Word :=
  BitVec.ofNat 32 ((if write then 1 else 0) + if 2 ^ 32 ≤ a then 2 else 0)

/-! ### The colour formulas of R133, with `K(x) = RN_S(x)` of the literals of R131 -/

/-- `K(x)` for the literal `x = thousandths / 1000` (R131). -/
def lit (thousandths : Nat) : FVal := rnRational .s false thousandths 1000

/-- `Y` of an Additive Pixel. -/
def lumaY (r g b : FVal) : FVal :=
  fadd .s (lit 16000) (fdiv .s (fadd .s (fadd .s (fmul .s (lit 65738) r) (fmul .s (lit 129057) g)) (fmul .s (lit 24064) b))
    (lit 256000))

/-- `Cb` of an Additive Pixel. -/
def lumaCb (r g b : FVal) : FVal :=
  fadd .s (lit 128000)
    (fdiv .s (fadd .s (fsub .s (fmul .s (lit 37945).neg r) (fmul .s (lit 74494) g)) (fmul .s (lit 112439) b)) (lit 256000))

/-- `Cr` of an Additive Pixel. -/
def lumaCr (r g b : FVal) : FVal :=
  fadd .s (lit 128000)
    (fdiv .s (fsub .s (fsub .s (fmul .s (lit 112439) r) (fmul .s (lit 94154) g)) (fmul .s (lit 18285) b)) (lit 256000))

/-- `R` of a LumaChroma Pixel. -/
def addR (y cr : FVal) : FVal :=
  fsub .s (fdiv .s (fadd .s (fmul .s (lit 298082) y) (fmul .s (lit 408583) cr)) (lit 256000)) (lit 222921)

/-- `G` of a LumaChroma Pixel. -/
def addG (y cb cr : FVal) : FVal :=
  fadd .s (fdiv .s (fsub .s (fsub .s (fmul .s (lit 298082) y) (fmul .s (lit 100291) cb)) (fmul .s (lit 208120) cr))
    (lit 256000)) (lit 135576)

/-- `B` of a LumaChroma Pixel. -/
def addB (y cb : FVal) : FVal :=
  fsub .s (fdiv .s (fadd .s (fmul .s (lit 298082) y) (fmul .s (lit 516412) cb)) (lit 256000)) (lit 276836)

/-- The value of the channel that byte `b` of an exported pixel holds: R, G, B (R70, R168). -/
def exported (p : Pixel) (b : Nat) : FVal :=
  match p.tag, b with
  | .additive, 0 => valS p.c1
  | .additive, 1 => valS p.c2
  | .additive, _ => valS p.c3
  | .lumaChroma, 0 => addR (valS p.c1) (valS p.c3)
  | .lumaChroma, 1 => addG (valS p.c1) (valS p.c2) (valS p.c3)
  | .lumaChroma, _ => addB (valS p.c1) (valS p.c2)

/-- `y` is a byte R169 allows for the component `x`: any byte for a NaN, 0 below 0, 255 above 255, else the floor. -/
def clampedTo (x : FVal) (y : Byte) : Prop :=
  match x with
  | .nan => True
  | .inf neg => y.toNat = if neg then 0 else 255
  | .fin neg m => y.toNat = if neg then 0 else if 255 * 2 ^ 149 < m then 255 else m / 2 ^ 149

/-- `(r, c, b)` comes before `(r', c', b')` in the access order of R78. -/
def before (r c b r' c' b' : Nat) : Prop := r < r' ∨ (r = r' ∧ (c < c' ∨ (c = c' ∧ b < b')))

/-! ### The cell functions of R209 -/

/-- The sum of R209: from `+0`, terms added for the first index ascending and within it the second. -/
def sum (F : Prec) (W H : Nat) (term : Nat → Nat → FVal) : FVal :=
  ((List.range W).flatMap fun k => (List.range H).map fun l => term k l).foldl (fadd F) (.fin false 0)

/-- The input `x[a][b]` in format `F` (R202). -/
def input (s : State) (F : Prec) (a b : Nat) : FVal :=
  match F with
  | .s => val .s ((s.gin.get a b).toNat % 2 ^ 32)
  | .d => val .d (s.gin.get a b).toNat

/-- A container holds the result `y` of a command of format `F` (R202, R228): its bits encode `y`, any NaN for a NaN, and for
`S` bits 63:32 are 0. -/
def holdsResult (F : Prec) (c : Container) (y : FVal) : Prop :=
  match F with
  | .s => c.toNat < 2 ^ 32 ∧ val .s c.toNat = y
  | .d => val .d c.toNat = y

/-- Legal extents (R204), for `NMAX = 8`. -/
def legalExtents (o : OperandRegs) : Prop :=
  (1 ≤ o.gw.toNat ∧ o.gw.toNat ≤ 8) ∧ 1 ≤ o.gh.toNat ∧ o.gh.toNat ≤ 8

/-- A transform of format `F` completed from `s` to `t`: every container of the grid holds its cell, every other one is 0
(R217), and nothing else changes but the flags and the model's draw counter. -/
def transformedTo (s t : State) (F : Prec) (cell : Nat → Nat → FVal) : Prop :=
  t = { s with gout := t.gout, stat := done s.stat, draws := t.draws } ∧
  ∀ a b, a < 8 → b < 8 →
    if a < s.opnd.gw.toNat ∧ b < s.opnd.gh.toNat then holdsResult F (t.gout.get a b) (cell a b) else t.gout.get a b = 0

/-! ### Rounding -/

/-- The rational number a finite value stands for (R12). -/
def toRat (F : Prec) (neg : Bool) (m : Nat) : ℚ := (if neg then -1 else 1) * (m : ℚ) / 2 ^ F.unitExp

/-- `y = RN_F(x)` up to the sign of a zero (R12): the nearest number with the format's precision, of two equally near ones the one
with an even last fraction bit, or an infinity when the number so chosen with an unbounded exponent is past the format. -/
def isRounded (F : Prec) (x : ℚ) (y : FVal) : Prop :=
  match y with
  | .nan => False
  | .inf neg => ((2 : ℚ) ^ F.topExp - 2 ^ (F.topExp - F.fracBits - 2)) / 2 ^ F.unitExp ≤ if neg then -x else x
  | .fin neg m => F.holds m ∧ ∀ (neg' : Bool) (k e : Nat), k < 2 ^ (F.fracBits + 1) →
      |toRat F neg m - x| ≤ |toRat F neg' (k * 2 ^ e) - x| ∧
      (toRat F neg m ≠ toRat F neg' (k * 2 ^ e) → |toRat F neg m - x| = |toRat F neg' (k * 2 ^ e) - x| → magBits F m % 2 = 0)

/-- `y` is a finite value of format `F` nearest to the real number `x` (R12, R250, R251). -/
def isNearestReal (F : Prec) (x : ℝ) (y : FVal) : Prop :=
  ∃ neg m, y = .fin neg m ∧ F.holds m ∧ ∀ (neg' : Bool) (k e : Nat), k < 2 ^ (F.fracBits + 1) →
    |((toRat F neg m : ℚ) : ℝ) - x| ≤ |((toRat F neg' (k * 2 ^ e) : ℚ) : ℝ) - x|

end Sys2Proof.Claims

open Sys2Proof Sys2Proof.Machine Sys2Proof.Claims

/-! ## Encoding -/

/-- R100..R105: decoding the encoding of a well-formed command gives the command back, with every operand. -/
def Obligations.DecodeOfEncodeIsTheCommand : Prop :=
  ∀ i : Instr, i.WellFormed = true → decode (encode i) = .ok i

/-- R101: a word that decodes is the encoding of the command it decodes to, which is well formed. -/
def Obligations.EncodeOfDecodeIsTheWord : Prop :=
  ∀ (w : Word) (i : Instr), decode w = .ok i → i.WellFormed = true ∧ encode i = w

/-- R100..R105, R108: a word selects a command exactly when it matches a row of the opcode table, and no two rows match it. -/
def Obligations.DecoderAcceptsExactlyTheOpcodeTable : Prop :=
  ∀ w : Word, ((∃ i, decode w = .ok i) ↔ ∃ r ∈ opcodeRows, w &&& r.1 = r.2) ∧
    ∀ r ∈ opcodeRows, ∀ r' ∈ opcodeRows, w &&& r.1 = r.2 → w &&& r'.1 = r'.2 → r = r'

/-- R110 and V-ENC-1: words the spec prints decode to the commands it prints them for. -/
def Obligations.PrintedWordsDecode : Prop :=
  decode 0x00000000 = .ok .nop ∧ decode 0x00000001 = .ok .errclr ∧ decode 0x00010210 = .ok (.pxnew 2 1) ∧
  decode 0x00FF0310 = .ok (.pxnew 3 255) ∧ decode 0x00000111 = .ok (.pxr 1) ∧ decode 0x00000314 = .ok (.pxy 3) ∧
  decode 0x00000020 = .ok .mnew ∧ decode 0x00000121 = .ok (.mget 1) ∧ decode 0x00000222 = .ok (.mset 2) ∧
  decode 0x00000023 = .ok .mfrr ∧ decode 0x00000024 = .ok .mtor ∧ decode 0x00000030 = .ok (.dcta .s) ∧
  decode 0x00000131 = .ok (.idcta .d) ∧ decode 0x00000132 = .ok (.dctb .d) ∧ decode 0x00000133 = .ok (.idctb .d) ∧
  decode 0x00000038 = .ok .gmov

/-- R108: a word that matches no row raises `IllegalCommand(w, 0)` and does nothing else. -/
def Obligations.IllegalWordRaisesIllegalCommand : Prop :=
  ∀ (s : State) (w : Word) (rest : List HostEvent), s.host = .wr 0x000004 w :: rest →
    (∀ r ∈ opcodeRows, w &&& r.1 ≠ r.2) → step s = raises { s with host := rest } 0x10 w 0

/-! ## The step and the host -/

/-- R23, R101: a step on `wr(CMD, w)` runs exactly the command that `w` decodes to, in the state without that event. -/
def Obligations.StepRunsTheDecodedCommand : Prop :=
  ∀ (s : State) (w : Word) (i : Instr) (rest : List HostEvent), s.host = .wr 0x000004 w :: rest → decode w = .ok i →
    step s = exec i { s with host := rest }

/-- R290, R311 and the model's choice of log 17: with no event to come CORE holds its state. -/
def Obligations.IdleWithoutEvents : Prop := ∀ s : State, s.host = [] → step s = .next s

/-- R79: an aligned `rd` returns the word at the offset and has no side effect. -/
def Obligations.ReadsHaveNoSideEffect : Prop :=
  ∀ (s : State) (off : Offset) (rest : List HostEvent), s.host = .rd off :: rest → off.toNat % 4 = 0 →
    step s = .next { s with host := rest, reads := s.busRead off :: s.reads }

/-- R21, R28..R33, R41, R77: a write to an operand register or a `GIN` window word puts the value in the field or the half of
the container that stands at that offset and nowhere else; it reads back there and every other word of the register space reads as
before. -/
def Obligations.WritesReadBackAndChangeNothingElse : Prop :=
  ∀ (s : State) (off : Offset) (v : Word) (rest : List HostEvent), s.host = .wr off v :: rest → off.toNat % 4 = 0 →
    writable off → ∃ t, step s = .next t ∧
      (∀ off' : Offset, off'.toNat % 4 = 0 → t.busRead off' = if off' = off then v else s.busRead off') ∧
      t = { s with host := rest, opnd := operandsAfter s.opnd off v, gin := t.gin } ∧
      ∀ a b, a < 8 → b < 8 → t.gin.get a b = containerAfter (s.gin.get a b) (lowWordAt 0x100000 a b) off v

/-- R47: undefined offsets read 0 and ignore writes, read-only registers ignore writes, and accesses that are not aligned 32-bit
words are refused. -/
def Obligations.UndefinedSpaceReadsZeroAndIgnoresWrites : Prop :=
  ∀ (s : State) (off : Offset) (rest : List HostEvent),
    (s.host = .rd off :: rest → off.toNat % 4 = 0 → ¬listed off →
      step s = .next { s with host := rest, reads := 0 :: s.reads }) ∧
    (∀ v, s.host = .wr off v :: rest → off.toNat % 4 = 0 → ¬writable off → off ≠ 0x000004 →
      step s = .next { s with host := rest }) ∧
    (∀ v, s.host = .wr off v :: rest → off.toNat % 4 ≠ 0 → step s = .refused .misalignedAccess) ∧
    (s.host = .rd off :: rest → off.toNat % 4 ≠ 0 → step s = .refused .misalignedAccess) ∧
    (∀ n, s.host = .narrow off n :: rest → step s = .refused .narrowAccess)

/-- R22, R23, R36: what the constant registers and `CMD` read, for every legal platform. -/
def Obligations.ConstantRegistersRead : Prop :=
  ∀ s : State, s.plat.legal →
    s.busRead 0x000000 = 0x44435438 ∧ s.busRead 0x000004 = 0 ∧
    (s.busRead 0x000054).toNat = 8 + s.plat.pmax * 2 ^ 8 + 8 * 2 ^ 16 + 4 * 2 ^ 24 ∧
    (s.busRead 0x000058).toNat = s.plat.matcap

/-- R76: a host that issues only aligned 32-bit accesses is never refused, and what is left of its events stays so. -/
def Obligations.AdmissibleHostIsNeverRefused : Prop :=
  ∀ s : State, s.safe → ∃ t, step s = .next t ∧ t.safe

/-! ## Reset -/

/-- R48: after a reset event, and in `State.reset`, every piece of state has the listed value; reset does not touch the raster. -/
def Obligations.ResetLeavesTheListedValues : Prop :=
  isReset State.reset ∧
  ∀ (s : State) (rest : List HostEvent), s.host = .reset :: rest →
    ∃ t, step s = .next t ∧ isReset t ∧ t.raster = s.raster

/-- R310: a reset in the middle of a command abandons it: the state is the reset state, and of an `MTOR` that had begun to write
a prefix of its byte writes, in access order, stays: in a state that meets the invariant each byte among the first `n` holds its
clamped channel where none later among them coincides with it, and every other byte keeps its old value. -/
def Obligations.ResetInMidCommandKeepsAPrefix : Prop :=
  ∀ (s : State) (w : Word) (n : Nat) (rest : List HostEvent), s.host = .resetDuring w n :: rest →
    ∃ t, step s = .next t ∧ isReset t ∧ t.plat = s.plat ∧ t.host = rest ∧
      (decode w ≠ .ok .mtor ∨ ¬regionFits s ∨ (∃ a ∈ region s, ¬mayAccess s .wr a) → t.raster = s.raster) ∧
      (decode w = .ok .mtor → regionFits s → (∀ a ∈ region s, mayAccess s .wr a) →
        (∀ a, a ∉ (region s).take n → t.raster.read a = s.raster.read a) ∧
        (s.Inv → ∀ r c b done later, (points s).take n = done ++ (r, c, b) :: later →
          (∀ p ∈ later, addr s p.1 p.2.1 p.2.2 ≠ addr s r c b) →
          clampedTo (exported (s.mat.cell r c) b) (t.raster.read (addr s r c b))) ∧
        ((region s).length ≤ n → ∃ u, exec .mtor s = .next u ∧ t.raster = u.raster))

/-! ## Invariants -/

/-- R35, R48: the reset state meets the invariant. -/
def Obligations.ResetStateMeetsTheInvariant : Prop := State.reset.Inv

/-- R35, R38, R271, R274 and the canonical forms of log 4 and log 13: every step keeps the invariant. -/
def Obligations.StepKeepsTheInvariant : Prop :=
  ∀ s t : State, s.Inv → step s = .next t → t.Inv

/-- R312: no step changes the parameters. -/
def Obligations.ParametersNeverChange : Prop :=
  ∀ s t : State, step s = .next t → t.plat = s.plat

/-- R27: `CMDCNT` counts the words written to `CMD` since reset, modulo 2^32: such a write adds 1, whether the command completes
or raises; a reset sets it to 0; nothing else changes it. -/
def Obligations.CommandCounterCountsCommandWords : Prop :=
  ∀ (s t : State), step s = .next t →
    t.stat.cmdCnt =
      match s.host with
      | .wr off _ :: _ => if off = 0x000004 then s.stat.cmdCnt + 1 else s.stat.cmdCnt
      | .reset :: _ => 0
      | .resetDuring _ _ :: _ => 0
      | _ => s.stat.cmdCnt

/-- R24, R261: `STICKY` is cleared only by `ERRCLR` and by reset. -/
def Obligations.StickyIsClearedOnlyByErrclrAndReset : Prop :=
  ∀ (s t : State), step s = .next t → s.stat.sticky = true → t.stat.sticky = false →
    ∃ e rest, s.host = e :: rest ∧ (e = .wr 0x000004 0x00000001 ∨ e = .reset ∨ ∃ w n, e = .resetDuring w n)

/-! ## Errors -/

/-- R274: a raising command writes `CMDCNT`, `LASTERR`, `STICKY`, `ERRA`, `ERRB` and nothing else; a completing one leaves
`ERRA`, `ERRB`, and `STICKY` but for `ERRCLR`, alone; there is no third outcome. -/
def Obligations.RaisingCommandWritesOnlyTheErrorReport : Prop :=
  ∀ (s : State) (w : Word) (rest : List HostEvent), s.host = .wr 0x000004 w :: rest →
    ∃ t, step s = .next t ∧
      (t.stat.lastErr ≠ 0 → ∃ a b, t = { s with host := rest, stat := failed s.stat t.stat.lastErr a b }) ∧
      (t.stat.lastErr = 0 → t.stat.errA = s.stat.errA ∧ t.stat.errB = s.stat.errB ∧ t.stat.cmdCnt = s.stat.cmdCnt + 1 ∧
        (w ≠ 0x00000001 → t.stat.sticky = s.stat.sticky))

/-- R279: the errors each command can raise, complete, with the sub-causes of `ParamRange`. -/
def Obligations.ErrorsByCommand : Prop :=
  ∀ (i : Instr) (s t : State), exec i s = .next t →
    match i with
    | .pxnew _ _ => t.stat.lastErr = 0 ∨ t.stat.lastErr = 0x01
    | .mnew => t.stat.lastErr = 0 ∨ (t.stat.lastErr = 0x11 ∧ t.stat.errA = 4)
    | .mget _ => t.stat.lastErr = 0 ∨ t.stat.lastErr = 0x02
    | .mset _ => t.stat.lastErr = 0 ∨ t.stat.lastErr = 0x02
    | .mfrr => t.stat.lastErr = 0 ∨ (t.stat.lastErr = 0x11 ∧ t.stat.errA = 4) ∨ t.stat.lastErr = 0x12
    | .mtor => t.stat.lastErr = 0 ∨ t.stat.lastErr = 0x02 ∨ t.stat.lastErr = 0x12
    | .dcta _ => t.stat.lastErr = 0 ∨ (t.stat.lastErr = 0x11 ∧ t.stat.errA ∈ [1#32, 2#32, 3#32])
    | .idcta _ => t.stat.lastErr = 0 ∨ (t.stat.lastErr = 0x11 ∧ t.stat.errA ∈ [1#32, 2#32, 3#32])
    | .dctb _ => t.stat.lastErr = 0 ∨ (t.stat.lastErr = 0x11 ∧ t.stat.errA ∈ [1#32, 2#32])
    | .idctb _ => t.stat.lastErr = 0 ∨ (t.stat.lastErr = 0x11 ∧ t.stat.errA ∈ [1#32, 2#32])
    | _ => t.stat.lastErr = 0

/-- R34, R37, R38, R39, R40, R321: which commands may write which store; no command writes an operand register, a parameter, or
what the host will do next. -/
def Obligations.EachStoreHasItsWriters : Prop :=
  ∀ (i : Instr) (s t : State), exec i s = .next t →
    t.opnd = s.opnd ∧ t.plat = s.plat ∧ t.host = s.host ∧ t.reads = s.reads ∧
    (t.px ≠ s.px → (∃ n fmt, i = .pxnew n fmt) ∨ ∃ n, i = .mget n) ∧
    (t.res ≠ s.res → ∃ n, i = .pxr n ∨ i = .pxg n ∨ i = .pxb n ∨ i = .pxy n ∨ i = .pxcb n ∨ i = .pxcr n) ∧
    (t.mat ≠ s.mat → i = .mnew ∨ i = .mfrr ∨ ∃ n, i = .mset n) ∧
    (t.gin ≠ s.gin → i = .gmov) ∧
    (t.gout ≠ s.gout → ∃ F, i = .dcta F ∨ i = .idcta F ∨ i = .dctb F ∨ i = .idctb F) ∧
    (t.raster ≠ s.raster → i = .mtor)

/-! ## The system commands -/

/-- R260, R261, R262: what `NOP`, `ERRCLR` and `GMOV` do, and that they change nothing else. -/
def Obligations.SystemCommandsComplete : Prop :=
  ∀ s : State,
    exec .nop s = .next { s with stat := done s.stat } ∧
    exec .errclr s = .next { s with stat := { done s.stat with sticky := false } } ∧
    ∃ t, exec .gmov s = .next t ∧ t = { s with gin := t.gin, stat := done s.stat } ∧
      ∀ a b, a < 8 → b < 8 → t.gin.get a b = s.gout.get a b

/-! ## The Pixel commands -/

/-- R134: `PXNEW` stores the tag and `C1, C2, C3` bit for bit in `PX[px]` and changes no other pixel register; an unrecognised
tag raises `InvalidFormat`. -/
def Obligations.PxnewConstructsAPixel : Prop :=
  ∀ (s : State) (px : Fin 4) (fmt : Nat),
    (fmt ≤ 1 → ∃ t, exec (.pxnew px fmt) s = .next t ∧ t = { s with px := t.px, stat := done s.stat } ∧
      ∀ n, t.px.get n = if n = px then
        { tag := if fmt = 0 then .additive else .lumaChroma, c1 := s.opnd.c1, c2 := s.opnd.c2, c3 := s.opnd.c3 }
        else s.px.get n) ∧
    (2 ≤ fmt → fmt < 256 → exec (.pxnew px fmt) s = raises s 0x01 (BitVec.ofNat 32 fmt) 0)

/-- R132, R135..R140: a raw channel is returned bit for bit, and only `RES`, the flags and the model's draw counter change. -/
def Obligations.RawChannelsAreReturnedBitForBit : Prop :=
  ∀ (s : State) (px : Fin 4),
    let p := s.px.get px
    let gives := fun (i : Instr) (w : Word) => ∃ d, exec i s = .next { s with res := w, stat := done s.stat, draws := d }
    (p.tag = .additive → gives (.pxr px) p.c1 ∧ gives (.pxg px) p.c2 ∧ gives (.pxb px) p.c3) ∧
    (p.tag = .lumaChroma → gives (.pxy px) p.c1 ∧ gives (.pxcb px) p.c2 ∧ gives (.pxcr px) p.c3)

/-- R133, R135..R140, R143: a derived channel has the value of its formula, evaluated in format `S` in the written order with
the literals of R131 each rounded once (any NaN when the value is a NaN), and only `RES`, the flags and the model's draw counter
change. -/
def Obligations.DerivedChannelsFollowTheFormulas : Prop :=
  ∀ (s : State) (px : Fin 4),
    let p := s.px.get px
    let gives := fun (i : Instr) (x : FVal) =>
      ∃ w d, exec i s = .next { s with res := w, stat := done s.stat, draws := d } ∧ valS w = x
    (p.tag = .additive →
      gives (.pxy px) (lumaY (valS p.c1) (valS p.c2) (valS p.c3)) ∧
      gives (.pxcb px) (lumaCb (valS p.c1) (valS p.c2) (valS p.c3)) ∧
      gives (.pxcr px) (lumaCr (valS p.c1) (valS p.c2) (valS p.c3))) ∧
    (p.tag = .lumaChroma →
      gives (.pxr px) (addR (valS p.c1) (valS p.c3)) ∧
      gives (.pxg px) (addG (valS p.c1) (valS p.c2) (valS p.c3)) ∧
      gives (.pxb px) (addB (valS p.c1) (valS p.c2)))

/-! ## The Matrix commands -/

/-- R163, R164: `MNEW` gives a Matrix of the padded size with every cell Black, or raises `ParamRange(4)`. -/
def Obligations.MnewBuildsABlackMatrix : Prop :=
  ∀ s : State,
    (fits s → ∃ t, exec .mnew s = .next t ∧ t = { s with mat := t.mat, stat := done s.stat } ∧
      t.mat.height.toNat = padded s.opnd.argh.toNat ∧ t.mat.width.toNat = padded s.opnd.argw.toNat ∧
      ∀ r c, r < t.mat.height.toNat → c < t.mat.width.toNat → t.mat.cell r c = { tag := .additive, c1 := 0, c2 := 0, c3 := 0 }) ∧
    (¬fits s → exec .mnew s = raises s 0x11 4 0)

/-- R165: `MGET` copies the whole cell `(ROW, COL)` to `PX[px]`; an index outside the padded bounds raises `IndexOutOfRange`. -/
def Obligations.MgetCopiesACell : Prop :=
  ∀ (s : State) (px : Fin 4),
    (s.opnd.row.toNat < s.mat.height.toNat → s.opnd.col.toNat < s.mat.width.toNat →
      ∃ t, exec (.mget px) s = .next t ∧ t = { s with px := t.px, stat := done s.stat } ∧
        ∀ n, t.px.get n = if n = px then s.mat.cell s.opnd.row.toNat s.opnd.col.toNat else s.px.get n) ∧
    (s.mat.height.toNat ≤ s.opnd.row.toNat ∨ s.mat.width.toNat ≤ s.opnd.col.toNat →
      exec (.mget px) s = raises s 0x02 s.opnd.row s.opnd.col)

/-- R166: in a state that meets the invariant `MSET` replaces the cell `(ROW, COL)` and no other cell; an index outside the
padded bounds raises `IndexOutOfRange`. -/
def Obligations.MsetReplacesOneCell : Prop :=
  ∀ (s : State) (px : Fin 4), s.Inv →
    (s.opnd.row.toNat < s.mat.height.toNat → s.opnd.col.toNat < s.mat.width.toNat →
      ∃ t, exec (.mset px) s = .next t ∧ t = { s with mat := t.mat, stat := done s.stat } ∧
        t.mat.height = s.mat.height ∧ t.mat.width = s.mat.width ∧
        ∀ r c, r < s.mat.height.toNat → c < s.mat.width.toNat →
          t.mat.cell r c = if r = s.opnd.row.toNat ∧ c = s.opnd.col.toNat then s.px.get px else s.mat.cell r c) ∧
    (s.mat.height.toNat ≤ s.opnd.row.toNat ∨ s.mat.width.toNat ≤ s.opnd.col.toNat →
      exec (.mset px) s = raises s 0x02 s.opnd.row s.opnd.col)

/-- R31: in a state that meets the invariant a "negative" index, one of at least 2^31, always fails the bounds check. -/
def Obligations.NegativeIndexAlwaysRaises : Prop :=
  ∀ (s : State) (px : Fin 4), s.Inv → 2 ^ 31 ≤ s.opnd.row.toNat ∨ 2 ^ 31 ≤ s.opnd.col.toNat →
    exec (.mget px) s = raises s 0x02 s.opnd.row s.opnd.col ∧ exec (.mset px) s = raises s 0x02 s.opnd.row s.opnd.col

/-- R167: `MFRR` builds a Matrix of the padded size whose cells inside the raster are Additive Pixels with the exact values of
the raster's bytes, and whose other cells are Black; nothing else changes. -/
def Obligations.MfrrBuildsTheMatrixFromTheRaster : Prop :=
  ∀ s : State, fits s → (∀ a ∈ region s, mayAccess s .rd a) →
    ∃ t, exec .mfrr s = .next t ∧ t = { s with mat := t.mat, stat := done s.stat } ∧
      t.mat.height.toNat = padded s.opnd.argh.toNat ∧ t.mat.width.toNat = padded s.opnd.argw.toNat ∧
      ∀ r c, r < t.mat.height.toNat → c < t.mat.width.toNat →
        if r < s.opnd.argh.toNat ∧ c < s.opnd.argw.toNat then
          (t.mat.cell r c).tag = .additive ∧
          valS (t.mat.cell r c).c1 = .fin false ((s.raster.read (addr s r c 0)).toNat * 2 ^ 149) ∧
          valS (t.mat.cell r c).c2 = .fin false ((s.raster.read (addr s r c 1)).toNat * 2 ^ 149) ∧
          valS (t.mat.cell r c).c3 = .fin false ((s.raster.read (addr s r c 2)).toNat * 2 ^ 149)
        else t.mat.cell r c = { tag := .additive, c1 := 0, c2 := 0, c3 := 0 }

/-- R73, R167, R272, R273: `MFRR` raises `ParamRange(4)` before it looks at the raster, and else `BusFault` at the first byte in
access order that is no address or is not admitted. -/
def Obligations.MfrrErrors : Prop :=
  ∀ s : State,
    (¬fits s → exec .mfrr s = raises s 0x11 4 0) ∧
    ∀ a, fits s → firstFailing s .rd a → exec .mfrr s = raises s 0x12 (BitVec.ofNat 32 a) (busInfo false a)

/-- R71, R78, R168, R169: in a state that meets the invariant `MTOR` writes to the raster, for each pixel of the region, its
clamped channels; where rows overlap the last write in access order stands; every byte outside the footprint reads as before;
nothing else changes but the flags and the model's draw counter. -/
def Obligations.MtorExportsTheRegion : Prop :=
  ∀ s : State, s.Inv → regionFits s → (∀ a ∈ region s, mayAccess s .wr a) →
    ∃ t, exec .mtor s = .next t ∧ t = { s with raster := t.raster, stat := done s.stat, draws := t.draws } ∧
      (∀ a, a ∉ region s → t.raster.read a = s.raster.read a) ∧
      ∀ r c b, r < s.opnd.argh.toNat → c < s.opnd.argw.toNat → b < 3 →
        (∀ r' c' b', r' < s.opnd.argh.toNat → c' < s.opnd.argw.toNat → b' < 3 → before r c b r' c' b' →
          addr s r' c' b' ≠ addr s r c b) →
        clampedTo (exported (s.mat.cell r c) b) (t.raster.read (addr s r c b))

/-- R168, R272, R273: `MTOR` raises `IndexOutOfRange` when a non-empty region is larger than the Matrix, the column test first,
and else `BusFault` at the first byte in access order that is no address or is not admitted. -/
def Obligations.MtorErrors : Prop :=
  ∀ s : State,
    (0 < s.opnd.argh.toNat → s.mat.width.toNat < s.opnd.argw.toNat → exec .mtor s = raises s 0x02 0 s.mat.width) ∧
    (0 < s.opnd.argw.toNat → s.opnd.argw.toNat ≤ s.mat.width.toNat → s.mat.height.toNat < s.opnd.argh.toNat →
      exec .mtor s = raises s 0x02 s.mat.height 0) ∧
    ∀ a, regionFits s → firstFailing s .wr a → exec .mtor s = raises s 0x12 (BitVec.ofNat 32 a) (busInfo true a)

/-- R171, for every stride: `MFRR` followed by `MTOR` with the same operand registers leaves every byte of the raster as it was.
-/
def Obligations.RasterRoundTrip : Prop :=
  ∀ s : State, s.Inv → fits s → (∀ a ∈ region s, mayAccess s .rd a ∧ mayAccess s .wr a) →
    ∃ t u, exec .mfrr s = .next t ∧ exec .mtor t = .next u ∧ t.stat.lastErr = 0 ∧ u.stat.lastErr = 0 ∧
      ∀ a, u.raster.read a = s.raster.read a

/-! ## The transform commands -/

/-- R204: the parameter checks in their order; on an error `GOUT` and everything but the error report keep their content; with
legal parameters, any `NPART ≥ 1` among them, there is no error, and Formulation B does not look at `NPART`. -/
def Obligations.TransformParameterErrors : Prop :=
  ∀ (s : State) (F : Prec),
    (∀ i ∈ [Instr.dcta F, .idcta F, .dctb F, .idctb F],
      (s.opnd.gw.toNat = 0 ∨ 8 < s.opnd.gw.toNat → exec i s = raises s 0x11 1 s.opnd.gw) ∧
      (1 ≤ s.opnd.gw.toNat → s.opnd.gw.toNat ≤ 8 → s.opnd.gh.toNat = 0 ∨ 8 < s.opnd.gh.toNat →
        exec i s = raises s 0x11 2 s.opnd.gh)) ∧
    (∀ i ∈ [Instr.dcta F, .idcta F], legalExtents s.opnd →
      (s.opnd.npart.toNat = 0 → exec i s = raises s 0x11 3 0) ∧
      (1 ≤ s.opnd.npart.toNat → ∃ t, exec i s = .next t ∧ t.stat.lastErr = 0)) ∧
    ∀ i ∈ [Instr.dctb F, .idctb F], legalExtents s.opnd → ∃ t, exec i s = .next t ∧ t.stat.lastErr = 0

/-- R209, R217, R220: `DCTA` completes for every `NPART ≥ 1`, every cell of `GOUT` inside the grid holds `cellA_fwd`, every other
one is 0, nothing else changes. -/
def Obligations.DctaComputesTheForwardTransform : Prop :=
  ∀ (s : State) (F : Prec), legalExtents s.opnd → 1 ≤ s.opnd.npart.toNat →
    ∃ t, exec (.dcta F) s = .next t ∧ transformedTo s t F fun i j =>
      fmul F (fmul F (cnRom F s.opnd.gw.toNat i) (cnRom F s.opnd.gh.toNat j))
        (sum F s.opnd.gw.toNat s.opnd.gh.toNat fun k l =>
          fmul F (fmul F (input s F k l) (cosRom F s.opnd.gw.toNat k i)) (cosRom F s.opnd.gh.toNat l j))

/-- R209, R217, R221: `IDCTA` completes for every `NPART ≥ 1`, every cell of `GOUT` inside the grid holds `cellA_inv`, every
other one is 0, nothing else changes. -/
def Obligations.IdctaComputesTheInverseTransform : Prop :=
  ∀ (s : State) (F : Prec), legalExtents s.opnd → 1 ≤ s.opnd.npart.toNat →
    ∃ t, exec (.idcta F) s = .next t ∧ transformedTo s t F fun k l =>
      sum F s.opnd.gw.toNat s.opnd.gh.toNat fun i j =>
        fmul F (fmul F (fmul F (fmul F (cnRom F s.opnd.gw.toNat i) (cnRom F s.opnd.gh.toNat j)) (input s F i j))
          (cosRom F s.opnd.gw.toNat k i)) (cosRom F s.opnd.gh.toNat l j)

/-- R209, R217, R222: `DCTB` completes whatever `NPART` is, every cell of `GOUT` inside the grid holds `cellB_fwd` with
`BETA = 1/W + 1/H` computed in the format, every other one is 0, nothing else changes. -/
def Obligations.DctbComputesTheForwardTransform : Prop :=
  ∀ (s : State) (F : Prec), legalExtents s.opnd →
    ∃ t, exec (.dctb F) s = .next t ∧ transformedTo s t F fun u v =>
      fmul F (fmul F (fmul F
        (fadd F (fdiv F (.ofNat F 1) (.ofNat F s.opnd.gw.toNat)) (fdiv F (.ofNat F 1) (.ofNat F s.opnd.gh.toNat)))
        (alphaRom F u)) (alphaRom F v))
        (sum F s.opnd.gw.toNat s.opnd.gh.toNat fun a b =>
          fmul F (fmul F (input s F a b) (cosRom F s.opnd.gw.toNat a u)) (cosRom F s.opnd.gh.toNat b v))

/-- R209, R217, R223: `IDCTB` completes whatever `NPART` is, every cell of `GOUT` inside the grid holds `cellB_inv`, every other
one is 0, nothing else changes. -/
def Obligations.IdctbComputesTheInverseTransform : Prop :=
  ∀ (s : State) (F : Prec), legalExtents s.opnd →
    ∃ t, exec (.idctb F) s = .next t ∧ transformedTo s t F fun a b =>
      fmul F
        (fadd F (fdiv F (.ofNat F 1) (.ofNat F s.opnd.gw.toNat)) (fdiv F (.ofNat F 1) (.ofNat F s.opnd.gh.toNat)))
        (sum F s.opnd.gw.toNat s.opnd.gh.toNat fun u v =>
          fmul F (fmul F (fmul F (fmul F (input s F u v) (cosRom F s.opnd.gw.toNat a u)) (cosRom F s.opnd.gh.toNat b v))
            (alphaRom F u)) (alphaRom F v))

/-- R210, R212: the partitions are contiguous, pairwise disjoint and cover `[0, W)`, the last one takes the remainder; so the
lanes together compute every cell of the grid, each exactly once. -/
def Obligations.PartitionsTileTheGrid : Prop :=
  ∀ W H P : Nat, 1 ≤ P →
    partStart W P 0 = 0 ∧ partEnd W P (P - 1) = W ∧
    (∀ p, p + 1 < P → partEnd W P p = partStart W P (p + 1) ∧ partEnd W P p - partStart W P p = W / P) ∧
    partEnd W P (P - 1) - partStart W P (P - 1) = W / P + W % P ∧
    (∀ a, a < W → ∃ p, (p < P ∧ partStart W P p ≤ a ∧ a < partEnd W P p) ∧
      ∀ q, q < P → partStart W P q ≤ a → a < partEnd W P q → q = p) ∧
    (laneOrder W H P).Nodup ∧ ∀ a b, (a, b) ∈ laneOrder W H P ↔ a < W ∧ b < H

/-- R215, R216: whatever order the cells are computed in, and whatever the partition count, `GOUT` ends the same: for every list
of cells with exactly the cells of the grid in it, the result is that of the partitions run one after another. R216 says so bit for
bit, "a NaN result aside"; that the bits of a NaN cell agree too is the model's choice (log 7, DESIGN CHOICE): container `(a, b)`
takes draw `draws + 8*a + b` in every order. -/
def Obligations.ScheduleDoesNotMatter : Prop :=
  ∀ (s : State) (F : Prec) (cell : Nat → Nat → FVal) (P : Nat) (order : List (Nat × Nat)), legalExtents s.opnd → 1 ≤ P →
    (∀ a b, (a, b) ∈ order ↔ a < s.opnd.gw.toNat ∧ b < s.opnd.gh.toNat) →
    (s.transformed F order cell).gout = (s.transformed F (laneOrder s.opnd.gw.toNat s.opnd.gh.toNat P) cell).gout

/-- R216: the content of `GOUT` after `DCTA` or `IDCTA` is the same for every `NPART ≥ 1`, bit for bit, a NaN aside. -/
def Obligations.PartitionCountDoesNotChangeTheResult : Prop :=
  ∀ (s : State) (F : Prec) (p q : Word), legalExtents s.opnd → 1 ≤ p.toNat → 1 ≤ q.toNat →
    ∀ i ∈ [Instr.dcta F, .idcta F], ∃ t u,
      exec i { s with opnd := { s.opnd with npart := p } } = .next t ∧
      exec i { s with opnd := { s.opnd with npart := q } } = .next u ∧
      ∀ a b, a < 8 → b < 8 → loadContainer F (t.gout.get a b) = loadContainer F (u.gout.get a b) ∧
        (loadContainer F (t.gout.get a b) ≠ .nan → t.gout.get a b = u.gout.get a b)

/-- R219 (a): if an input inside the grid is a NaN, every output cell of each of the four transforms is a NaN. -/
def Obligations.NaNInputMakesEveryCellNaN : Prop :=
  ∀ (s : State) (F : Prec), legalExtents s.opnd → 1 ≤ s.opnd.npart.toNat →
    (∃ a b, a < s.opnd.gw.toNat ∧ b < s.opnd.gh.toNat ∧ input s F a b = .nan) →
    ∀ i ∈ [Instr.dcta F, .idcta F, .dctb F, .idctb F], ∃ t, exec i s = .next t ∧ t.stat.lastErr = 0 ∧
      ∀ a b, a < s.opnd.gw.toNat → b < s.opnd.gh.toNat → isNaNPattern F ((t.gout.get a b).toNat % 2 ^ F.width)

/-- R313: the transform of a grid of zeros is all `+0`, for each of the four transforms and every legal extent. -/
def Obligations.ZeroGridTransformsToZero : Prop :=
  ∀ (s : State) (F : Prec), legalExtents s.opnd → 1 ≤ s.opnd.npart.toNat →
    (∀ a b, a < s.opnd.gw.toNat → b < s.opnd.gh.toNat → input s F a b = .fin false 0) →
    ∀ i ∈ [Instr.dcta F, .idcta F, .dctb F, .idctb F], ∃ t, exec i s = .next t ∧
      ∀ a b, a < 8 → b < 8 → t.gout.get a b = 0

/-- R220, R221 (corner case `W = H = 1`): Formulation A of a 1 × 1 grid is the input itself, with `-0` turned into `+0`, forward
and inverse. -/
def Obligations.OneByOneFormulationAIsTheIdentity : Prop :=
  ∀ (s : State) (F : Prec), s.opnd.gw.toNat = 1 → s.opnd.gh.toNat = 1 → 1 ≤ s.opnd.npart.toNat →
    ∀ i ∈ [Instr.dcta F, .idcta F], ∃ t, exec i s = .next t ∧
      holdsResult F (t.gout.get 0 0) (if input s F 0 0 = .fin true 0 then .fin false 0 else input s F 0 0)

/-! ## The arithmetic and the ROM -/

/-- R12, before the overflow to an infinity: a rounding gives a number of the format's precision, at most `fracBits + 1`
significant bits, no other such number is nearer, and on a tie its last fraction bit is even. -/
def Obligations.RoundingIsToNearestTiesToEven : Prop :=
  ∀ (F : Prec) (n d : Nat), 0 < d →
    (∃ k e, k < 2 ^ (F.fracBits + 1) ∧ rnMag F n d = k * 2 ^ e) ∧
    ∀ k e : Nat, k < 2 ^ (F.fracBits + 1) →
      |((rnMag F n d * d : Nat) : ℤ) - n| ≤ |((k * 2 ^ e * d : Nat) : ℤ) - n| ∧
      (rnMag F n d ≠ k * 2 ^ e → |((rnMag F n d * d : Nat) : ℤ) - n| = |((k * 2 ^ e * d : Nat) : ℤ) - n| →
        magBits F (rnMag F n d) % 2 = 0)

/-- R12: on finite operands of the format, `fadd`, `fsub`, `fmul` and `fdiv` give the exact sum, difference, product and quotient
rounded once, to nearest, a tie to the value with an even last fraction bit, overflowing to an infinity. -/
def Obligations.OperationsRoundTheExactResultOnce : Prop :=
  ∀ (F : Prec) (s t : Bool) (m n : Nat), F.holds m → F.holds n →
    isRounded F (toRat F s m + toRat F t n) (fadd F (.fin s m) (.fin t n)) ∧
    isRounded F (toRat F s m - toRat F t n) (fsub F (.fin s m) (.fin t n)) ∧
    isRounded F (toRat F s m * toRat F t n) (fmul F (.fin s m) (.fin t n)) ∧
    (n ≠ 0 → isRounded F (toRat F s m / toRat F t n) (fdiv F (.fin s m) (.fin t n)))

/-- The results of the operations on zeros, infinities and NaNs. R12 spells out the first two groups: `x + (-x) = +0`, the NaN
results, a finite non-zero number over a zero, and the exact sum with a zero. The others are the IEEE standard's, which R12 refers
to without spelling them out; the model takes them as PRESUMED (log 8): the sum of two zeros of one sign, infinities of one sign,
an infinity with a finite number, and the sign of a product and of a quotient, a zero one among them. -/
def Obligations.SpecialValuesFollowTheStandard : Prop :=
  ∀ (F : Prec) (s t : Bool) (m n : Nat) (x : FVal), F.holds m →
    (fadd F (.fin s m) (.fin (!s) m) = .fin false 0 ∧ fadd F (.inf s) (.inf (!s)) = .nan ∧ fsub F (.inf s) (.inf s) = .nan ∧
      fmul F (.fin s 0) (.inf t) = .nan ∧ fmul F (.inf s) (.fin t 0) = .nan ∧ fdiv F (.fin s 0) (.fin t 0) = .nan ∧
      fdiv F (.inf s) (.inf t) = .nan ∧
      (m ≠ 0 → fdiv F (.fin s m) (.fin t 0) = .inf (s ^^ t) ∧ fadd F (.fin s m) (.fin t 0) = .fin s m ∧
        fadd F (.fin t 0) (.fin s m) = .fin s m)) ∧
    (fadd F .nan x = .nan ∧ fadd F x .nan = .nan ∧ fsub F .nan x = .nan ∧ fsub F x .nan = .nan ∧
      fmul F .nan x = .nan ∧ fmul F x .nan = .nan ∧ fdiv F .nan x = .nan ∧ fdiv F x .nan = .nan) ∧
    (fadd F (.fin s 0) (.fin s 0) = .fin s 0 ∧ fadd F (.inf s) (.inf s) = .inf s ∧ fsub F (.inf s) (.inf (!s)) = .inf s ∧
      fadd F (.inf s) (.fin t n) = .inf s ∧ fadd F (.fin t n) (.inf s) = .inf s ∧
      fsub F (.inf s) (.fin t n) = .inf s ∧ fsub F (.fin t n) (.inf s) = .inf (!s)) ∧
    (fmul F (.inf s) (.inf t) = .inf (s ^^ t) ∧
      (n ≠ 0 → fmul F (.inf s) (.fin t n) = .inf (s ^^ t) ∧ fmul F (.fin s n) (.inf t) = .inf (s ^^ t)) ∧
      fdiv F (.inf s) (.fin t n) = .inf (s ^^ t) ∧ fdiv F (.fin s n) (.inf t) = .fin (s ^^ t) 0) ∧
    fmul F (.fin s 0) (.fin t n) = .fin (s ^^ t) 0 ∧ fmul F (.fin s n) (.fin t 0) = .fin (s ^^ t) 0 ∧
    (fmul F (.fin s m) (.fin t n) = .inf (s ^^ t) ∨ ∃ k, fmul F (.fin s m) (.fin t n) = .fin (s ^^ t) k) ∧
    (n ≠ 0 → fdiv F (.fin s 0) (.fin t n) = .fin (s ^^ t) 0 ∧
      (fdiv F (.fin s m) (.fin t n) = .inf (s ^^ t) ∨ ∃ k, fdiv F (.fin s m) (.fin t n) = .fin (s ^^ t) k))

/-- R12, R228: `val_F` inverts `bits_F` on every value of the format, whatever the draws, and `bits_F` inverts `val_F` on every
pattern that is no NaN; a NaN is encoded as some NaN of the format. -/
def Obligations.BitsAndValAreInverse : Prop :=
  ∀ (F : Prec) (n : Nat),
    (∀ x : FVal, x.ofFormat F → bits F n x < 2 ^ F.width ∧ val F (bits F n x) = x) ∧
    (∀ v, v < 2 ^ F.width → val F v ≠ .nan → bits F n (val F v) = v ∧ (val F v).ofFormat F) ∧
    isNaNPattern F (bits F n .nan)

/-- R251, R252: the normalisation constants are the square roots of the rule, each rounded once from its exact value. -/
def Obligations.NormalisationConstantsAreCorrectlyRounded : Prop :=
  ∀ (F : Prec) (n i : Nat), 1 ≤ n → n ≤ 8 →
    isNearestReal F (if i = 0 then Real.sqrt (1 / n) else Real.sqrt (2 / n)) (cnRom F n i) ∧
    isNearestReal F (if i = 0 then 1 / Real.sqrt 2 else 1) (alphaRom F i)

/-- R250: the COS ROM holds the cosines of the rule, each rounded once from its exact value, a zero always as `+0`. -/
def Obligations.CosRomIsCorrectlyRounded : Prop :=
  ∀ (F : Prec) (n k i : Nat), 1 ≤ n → n ≤ 8 → k < n → i < n →
    isNearestReal F (Real.cos ((2 * k + 1) * i * Real.pi / (2 * n))) (cosRom F n k i) ∧ cosRom F n k i ≠ .fin true 0

/-! ## The register map -/

/-- R21, R24..R35: what each status, operand, result and dimension register reads, in every state: `STATUS` is `LASTERR` in bits
7:0 and `STICKY` in bit 8, its other bits 0; each of the others is the register of that name. -/
def Obligations.EachRegisterStandsAtItsOffset : Prop :=
  ∀ s : State,
    (s.busRead 0x08).toNat = s.stat.lastErr.toNat + (if s.stat.sticky then 2 ^ 8 else 0) ∧
    s.busRead 0x0C = s.stat.errA ∧ s.busRead 0x10 = s.stat.errB ∧ s.busRead 0x14 = s.stat.cmdCnt ∧
    s.busRead 0x18 = s.opnd.npart ∧ s.busRead 0x1C = s.opnd.gw ∧ s.busRead 0x20 = s.opnd.gh ∧
    s.busRead 0x24 = s.opnd.argh ∧ s.busRead 0x28 = s.opnd.argw ∧ s.busRead 0x2C = s.opnd.row ∧ s.busRead 0x30 = s.opnd.col ∧
    s.busRead 0x34 = s.opnd.rbase ∧ s.busRead 0x38 = s.opnd.rstride ∧
    s.busRead 0x3C = s.opnd.c1 ∧ s.busRead 0x40 = s.opnd.c2 ∧ s.busRead 0x44 = s.opnd.c3 ∧
    s.busRead 0x48 = s.res ∧ s.busRead 0x4C = s.mat.height ∧ s.busRead 0x50 = s.mat.width

/-- R39, R40, R41, R77: container `(a, b)` of `GIN` and of `GOUT` reads in its window, bits 31:0 at the lower offset and bits 63:32
at that offset plus 4, whatever `GW` and `GH` are. -/
def Obligations.WindowsShowTheContainers : Prop :=
  ∀ (s : State) (a b : Nat), a < 8 → b < 8 →
    s.busRead (BitVec.ofNat 24 (lowWordAt 0x100000 a b)) = (s.gin.get a b).extractLsb' 0 32 ∧
    s.busRead (BitVec.ofNat 24 (lowWordAt 0x100000 a b + 4)) = (s.gin.get a b).extractLsb' 32 32 ∧
    s.busRead (BitVec.ofNat 24 (lowWordAt 0x200000 a b)) = (s.gout.get a b).extractLsb' 0 32 ∧
    s.busRead (BitVec.ofNat 24 (lowWordAt 0x200000 a b + 4)) = (s.gout.get a b).extractLsb' 32 32
end

