-- ==== Sys2Proof/Laws/State.lean ====
section
/-! SUPPORT. What each update of the state does to each field: no later proof unfolds a record update. -/

namespace Sys2Proof.Machine

variable (s : State)

@[simp] theorem State.setPx_opnd (n : Fin 4) (p : Pixel) : (s.setPx n p).opnd = s.opnd := rfl
@[simp] theorem State.setPx_res (n : Fin 4) (p : Pixel) : (s.setPx n p).res = s.res := rfl
@[simp] theorem State.setPx_stat (n : Fin 4) (p : Pixel) : (s.setPx n p).stat = s.stat := rfl
@[simp] theorem State.setPx_px (n : Fin 4) (p : Pixel) : (s.setPx n p).px = s.px.set n p := rfl
@[simp] theorem State.setPx_mat (n : Fin 4) (p : Pixel) : (s.setPx n p).mat = s.mat := rfl
@[simp] theorem State.setPx_gin (n : Fin 4) (p : Pixel) : (s.setPx n p).gin = s.gin := rfl
@[simp] theorem State.setPx_gout (n : Fin 4) (p : Pixel) : (s.setPx n p).gout = s.gout := rfl
@[simp] theorem State.setPx_plat (n : Fin 4) (p : Pixel) : (s.setPx n p).plat = s.plat := rfl
@[simp] theorem State.setPx_raster (n : Fin 4) (p : Pixel) : (s.setPx n p).raster = s.raster := rfl
@[simp] theorem State.setPx_host (n : Fin 4) (p : Pixel) : (s.setPx n p).host = s.host := rfl
@[simp] theorem State.setPx_reads (n : Fin 4) (p : Pixel) : (s.setPx n p).reads = s.reads := rfl
@[simp] theorem State.setPx_draws (n : Fin 4) (p : Pixel) : (s.setPx n p).draws = s.draws := rfl

@[simp] theorem State.setRes_opnd (w : Word) : (s.setRes w).opnd = s.opnd := rfl
@[simp] theorem State.setRes_res (w : Word) : (s.setRes w).res = w := rfl
@[simp] theorem State.setRes_stat (w : Word) : (s.setRes w).stat = s.stat := rfl
@[simp] theorem State.setRes_px (w : Word) : (s.setRes w).px = s.px := rfl
@[simp] theorem State.setRes_mat (w : Word) : (s.setRes w).mat = s.mat := rfl
@[simp] theorem State.setRes_gin (w : Word) : (s.setRes w).gin = s.gin := rfl
@[simp] theorem State.setRes_gout (w : Word) : (s.setRes w).gout = s.gout := rfl
@[simp] theorem State.setRes_plat (w : Word) : (s.setRes w).plat = s.plat := rfl
@[simp] theorem State.setRes_raster (w : Word) : (s.setRes w).raster = s.raster := rfl
@[simp] theorem State.setRes_host (w : Word) : (s.setRes w).host = s.host := rfl
@[simp] theorem State.setRes_reads (w : Word) : (s.setRes w).reads = s.reads := rfl
@[simp] theorem State.setRes_draws (w : Word) : (s.setRes w).draws = s.draws := rfl

@[simp] theorem State.setMat_opnd (m : PixelMatrix) : (s.setMat m).opnd = s.opnd := rfl
@[simp] theorem State.setMat_res (m : PixelMatrix) : (s.setMat m).res = s.res := rfl
@[simp] theorem State.setMat_stat (m : PixelMatrix) : (s.setMat m).stat = s.stat := rfl
@[simp] theorem State.setMat_px (m : PixelMatrix) : (s.setMat m).px = s.px := rfl
@[simp] theorem State.setMat_mat (m : PixelMatrix) : (s.setMat m).mat = m := rfl
@[simp] theorem State.setMat_gin (m : PixelMatrix) : (s.setMat m).gin = s.gin := rfl
@[simp] theorem State.setMat_gout (m : PixelMatrix) : (s.setMat m).gout = s.gout := rfl
@[simp] theorem State.setMat_plat (m : PixelMatrix) : (s.setMat m).plat = s.plat := rfl
@[simp] theorem State.setMat_raster (m : PixelMatrix) : (s.setMat m).raster = s.raster := rfl
@[simp] theorem State.setMat_host (m : PixelMatrix) : (s.setMat m).host = s.host := rfl
@[simp] theorem State.setMat_reads (m : PixelMatrix) : (s.setMat m).reads = s.reads := rfl
@[simp] theorem State.setMat_draws (m : PixelMatrix) : (s.setMat m).draws = s.draws := rfl

@[simp] theorem State.setGin_opnd (g : Grid) : (s.setGin g).opnd = s.opnd := rfl
@[simp] theorem State.setGin_res (g : Grid) : (s.setGin g).res = s.res := rfl
@[simp] theorem State.setGin_stat (g : Grid) : (s.setGin g).stat = s.stat := rfl
@[simp] theorem State.setGin_px (g : Grid) : (s.setGin g).px = s.px := rfl
@[simp] theorem State.setGin_mat (g : Grid) : (s.setGin g).mat = s.mat := rfl
@[simp] theorem State.setGin_gin (g : Grid) : (s.setGin g).gin = g := rfl
@[simp] theorem State.setGin_gout (g : Grid) : (s.setGin g).gout = s.gout := rfl
@[simp] theorem State.setGin_plat (g : Grid) : (s.setGin g).plat = s.plat := rfl
@[simp] theorem State.setGin_raster (g : Grid) : (s.setGin g).raster = s.raster := rfl
@[simp] theorem State.setGin_host (g : Grid) : (s.setGin g).host = s.host := rfl
@[simp] theorem State.setGin_reads (g : Grid) : (s.setGin g).reads = s.reads := rfl
@[simp] theorem State.setGin_draws (g : Grid) : (s.setGin g).draws = s.draws := rfl

@[simp] theorem State.setGout_opnd (g : Grid) : (s.setGout g).opnd = s.opnd := rfl
@[simp] theorem State.setGout_res (g : Grid) : (s.setGout g).res = s.res := rfl
@[simp] theorem State.setGout_stat (g : Grid) : (s.setGout g).stat = s.stat := rfl
@[simp] theorem State.setGout_px (g : Grid) : (s.setGout g).px = s.px := rfl
@[simp] theorem State.setGout_mat (g : Grid) : (s.setGout g).mat = s.mat := rfl
@[simp] theorem State.setGout_gin (g : Grid) : (s.setGout g).gin = s.gin := rfl
@[simp] theorem State.setGout_gout (g : Grid) : (s.setGout g).gout = g := rfl
@[simp] theorem State.setGout_plat (g : Grid) : (s.setGout g).plat = s.plat := rfl
@[simp] theorem State.setGout_raster (g : Grid) : (s.setGout g).raster = s.raster := rfl
@[simp] theorem State.setGout_host (g : Grid) : (s.setGout g).host = s.host := rfl
@[simp] theorem State.setGout_reads (g : Grid) : (s.setGout g).reads = s.reads := rfl
@[simp] theorem State.setGout_draws (g : Grid) : (s.setGout g).draws = s.draws := rfl

@[simp] theorem State.setRaster_opnd (m : Memory) : (s.setRaster m).opnd = s.opnd := rfl
@[simp] theorem State.setRaster_res (m : Memory) : (s.setRaster m).res = s.res := rfl
@[simp] theorem State.setRaster_stat (m : Memory) : (s.setRaster m).stat = s.stat := rfl
@[simp] theorem State.setRaster_px (m : Memory) : (s.setRaster m).px = s.px := rfl
@[simp] theorem State.setRaster_mat (m : Memory) : (s.setRaster m).mat = s.mat := rfl
@[simp] theorem State.setRaster_gin (m : Memory) : (s.setRaster m).gin = s.gin := rfl
@[simp] theorem State.setRaster_gout (m : Memory) : (s.setRaster m).gout = s.gout := rfl
@[simp] theorem State.setRaster_plat (m : Memory) : (s.setRaster m).plat = s.plat := rfl
@[simp] theorem State.setRaster_raster (m : Memory) : (s.setRaster m).raster = m := rfl
@[simp] theorem State.setRaster_host (m : Memory) : (s.setRaster m).host = s.host := rfl
@[simp] theorem State.setRaster_reads (m : Memory) : (s.setRaster m).reads = s.reads := rfl
@[simp] theorem State.setRaster_draws (m : Memory) : (s.setRaster m).draws = s.draws := rfl

@[simp] theorem State.setOpnd_opnd (o : OperandRegs) : (s.setOpnd o).opnd = o := rfl
@[simp] theorem State.setOpnd_res (o : OperandRegs) : (s.setOpnd o).res = s.res := rfl
@[simp] theorem State.setOpnd_stat (o : OperandRegs) : (s.setOpnd o).stat = s.stat := rfl
@[simp] theorem State.setOpnd_px (o : OperandRegs) : (s.setOpnd o).px = s.px := rfl
@[simp] theorem State.setOpnd_mat (o : OperandRegs) : (s.setOpnd o).mat = s.mat := rfl
@[simp] theorem State.setOpnd_gin (o : OperandRegs) : (s.setOpnd o).gin = s.gin := rfl
@[simp] theorem State.setOpnd_gout (o : OperandRegs) : (s.setOpnd o).gout = s.gout := rfl
@[simp] theorem State.setOpnd_plat (o : OperandRegs) : (s.setOpnd o).plat = s.plat := rfl
@[simp] theorem State.setOpnd_raster (o : OperandRegs) : (s.setOpnd o).raster = s.raster := rfl
@[simp] theorem State.setOpnd_host (o : OperandRegs) : (s.setOpnd o).host = s.host := rfl
@[simp] theorem State.setOpnd_reads (o : OperandRegs) : (s.setOpnd o).reads = s.reads := rfl
@[simp] theorem State.setOpnd_draws (o : OperandRegs) : (s.setOpnd o).draws = s.draws := rfl

@[simp] theorem State.setStat_opnd (r : StatusRegs) : (s.setStat r).opnd = s.opnd := rfl
@[simp] theorem State.setStat_res (r : StatusRegs) : (s.setStat r).res = s.res := rfl
@[simp] theorem State.setStat_stat (r : StatusRegs) : (s.setStat r).stat = r := rfl
@[simp] theorem State.setStat_px (r : StatusRegs) : (s.setStat r).px = s.px := rfl
@[simp] theorem State.setStat_mat (r : StatusRegs) : (s.setStat r).mat = s.mat := rfl
@[simp] theorem State.setStat_gin (r : StatusRegs) : (s.setStat r).gin = s.gin := rfl
@[simp] theorem State.setStat_gout (r : StatusRegs) : (s.setStat r).gout = s.gout := rfl
@[simp] theorem State.setStat_plat (r : StatusRegs) : (s.setStat r).plat = s.plat := rfl
@[simp] theorem State.setStat_raster (r : StatusRegs) : (s.setStat r).raster = s.raster := rfl
@[simp] theorem State.setStat_host (r : StatusRegs) : (s.setStat r).host = s.host := rfl
@[simp] theorem State.setStat_reads (r : StatusRegs) : (s.setStat r).reads = s.reads := rfl
@[simp] theorem State.setStat_draws (r : StatusRegs) : (s.setStat r).draws = s.draws := rfl

@[simp] theorem State.draw_opnd (n : Nat) : (s.draw n).opnd = s.opnd := rfl
@[simp] theorem State.draw_res (n : Nat) : (s.draw n).res = s.res := rfl
@[simp] theorem State.draw_stat (n : Nat) : (s.draw n).stat = s.stat := rfl
@[simp] theorem State.draw_px (n : Nat) : (s.draw n).px = s.px := rfl
@[simp] theorem State.draw_mat (n : Nat) : (s.draw n).mat = s.mat := rfl
@[simp] theorem State.draw_gin (n : Nat) : (s.draw n).gin = s.gin := rfl
@[simp] theorem State.draw_gout (n : Nat) : (s.draw n).gout = s.gout := rfl
@[simp] theorem State.draw_plat (n : Nat) : (s.draw n).plat = s.plat := rfl
@[simp] theorem State.draw_raster (n : Nat) : (s.draw n).raster = s.raster := rfl
@[simp] theorem State.draw_host (n : Nat) : (s.draw n).host = s.host := rfl
@[simp] theorem State.draw_reads (n : Nat) : (s.draw n).reads = s.reads := rfl
@[simp] theorem State.draw_draws (n : Nat) : (s.draw n).draws = s.draws + n := rfl

@[simp] theorem State.setHost_opnd (h : List HostEvent) : (s.setHost h).opnd = s.opnd := rfl
@[simp] theorem State.setHost_res (h : List HostEvent) : (s.setHost h).res = s.res := rfl
@[simp] theorem State.setHost_stat (h : List HostEvent) : (s.setHost h).stat = s.stat := rfl
@[simp] theorem State.setHost_px (h : List HostEvent) : (s.setHost h).px = s.px := rfl
@[simp] theorem State.setHost_mat (h : List HostEvent) : (s.setHost h).mat = s.mat := rfl
@[simp] theorem State.setHost_gin (h : List HostEvent) : (s.setHost h).gin = s.gin := rfl
@[simp] theorem State.setHost_gout (h : List HostEvent) : (s.setHost h).gout = s.gout := rfl
@[simp] theorem State.setHost_plat (h : List HostEvent) : (s.setHost h).plat = s.plat := rfl
@[simp] theorem State.setHost_raster (h : List HostEvent) : (s.setHost h).raster = s.raster := rfl
@[simp] theorem State.setHost_host (h : List HostEvent) : (s.setHost h).host = h := rfl
@[simp] theorem State.setHost_reads (h : List HostEvent) : (s.setHost h).reads = s.reads := rfl
@[simp] theorem State.setHost_draws (h : List HostEvent) : (s.setHost h).draws = s.draws := rfl

@[simp] theorem State.logRead_opnd (w : Word) : (s.logRead w).opnd = s.opnd := rfl
@[simp] theorem State.logRead_res (w : Word) : (s.logRead w).res = s.res := rfl
@[simp] theorem State.logRead_stat (w : Word) : (s.logRead w).stat = s.stat := rfl
@[simp] theorem State.logRead_px (w : Word) : (s.logRead w).px = s.px := rfl
@[simp] theorem State.logRead_mat (w : Word) : (s.logRead w).mat = s.mat := rfl
@[simp] theorem State.logRead_gin (w : Word) : (s.logRead w).gin = s.gin := rfl
@[simp] theorem State.logRead_gout (w : Word) : (s.logRead w).gout = s.gout := rfl
@[simp] theorem State.logRead_plat (w : Word) : (s.logRead w).plat = s.plat := rfl
@[simp] theorem State.logRead_raster (w : Word) : (s.logRead w).raster = s.raster := rfl
@[simp] theorem State.logRead_host (w : Word) : (s.logRead w).host = s.host := rfl
@[simp] theorem State.logRead_reads (w : Word) : (s.logRead w).reads = w :: s.reads := rfl
@[simp] theorem State.logRead_draws (w : Word) : (s.logRead w).draws = s.draws := rfl

@[simp] theorem State.complete_opnd : (s.complete).opnd = s.opnd := rfl
@[simp] theorem State.complete_res : (s.complete).res = s.res := rfl
@[simp] theorem State.complete_stat : (s.complete).stat = s.stat.completed := rfl
@[simp] theorem State.complete_px : (s.complete).px = s.px := rfl
@[simp] theorem State.complete_mat : (s.complete).mat = s.mat := rfl
@[simp] theorem State.complete_gin : (s.complete).gin = s.gin := rfl
@[simp] theorem State.complete_gout : (s.complete).gout = s.gout := rfl
@[simp] theorem State.complete_plat : (s.complete).plat = s.plat := rfl
@[simp] theorem State.complete_raster : (s.complete).raster = s.raster := rfl
@[simp] theorem State.complete_host : (s.complete).host = s.host := rfl
@[simp] theorem State.complete_reads : (s.complete).reads = s.reads := rfl
@[simp] theorem State.complete_draws : (s.complete).draws = s.draws := rfl

@[simp] theorem State.raiseError_opnd (e : CommandError) : (s.raiseError e).opnd = s.opnd := rfl
@[simp] theorem State.raiseError_res (e : CommandError) : (s.raiseError e).res = s.res := rfl
@[simp] theorem State.raiseError_stat (e : CommandError) : (s.raiseError e).stat = s.stat.raised e := rfl
@[simp] theorem State.raiseError_px (e : CommandError) : (s.raiseError e).px = s.px := rfl
@[simp] theorem State.raiseError_mat (e : CommandError) : (s.raiseError e).mat = s.mat := rfl
@[simp] theorem State.raiseError_gin (e : CommandError) : (s.raiseError e).gin = s.gin := rfl
@[simp] theorem State.raiseError_gout (e : CommandError) : (s.raiseError e).gout = s.gout := rfl
@[simp] theorem State.raiseError_plat (e : CommandError) : (s.raiseError e).plat = s.plat := rfl
@[simp] theorem State.raiseError_raster (e : CommandError) : (s.raiseError e).raster = s.raster := rfl
@[simp] theorem State.raiseError_host (e : CommandError) : (s.raiseError e).host = s.host := rfl
@[simp] theorem State.raiseError_reads (e : CommandError) : (s.raiseError e).reads = s.reads := rfl
@[simp] theorem State.raiseError_draws (e : CommandError) : (s.raiseError e).draws = s.draws := rfl

@[simp] theorem State.applyReset_opnd : (s.applyReset).opnd = OperandRegs.reset s.plat := rfl
@[simp] theorem State.applyReset_res : (s.applyReset).res = 0 := rfl
@[simp] theorem State.applyReset_stat : (s.applyReset).stat = StatusRegs.reset := rfl
@[simp] theorem State.applyReset_px : (s.applyReset).px = Vector.replicate 4 Pixel.black := rfl
@[simp] theorem State.applyReset_mat : (s.applyReset).mat = PixelMatrix.reset := rfl
@[simp] theorem State.applyReset_gin : (s.applyReset).gin = Grid.zero := rfl
@[simp] theorem State.applyReset_gout : (s.applyReset).gout = Grid.zero := rfl
@[simp] theorem State.applyReset_plat : (s.applyReset).plat = s.plat := rfl
@[simp] theorem State.applyReset_raster : (s.applyReset).raster = s.raster := rfl
@[simp] theorem State.applyReset_host : (s.applyReset).host = s.host := rfl
@[simp] theorem State.applyReset_reads : (s.applyReset).reads = s.reads := rfl
@[simp] theorem State.applyReset_draws : (s.applyReset).draws = s.draws := rfl

@[simp] theorem StatusRegs.completed_lastErr (r : StatusRegs) : r.completed.lastErr = 0 := rfl
@[simp] theorem StatusRegs.completed_sticky (r : StatusRegs) : r.completed.sticky = r.sticky := rfl
@[simp] theorem StatusRegs.completed_errA (r : StatusRegs) : r.completed.errA = r.errA := rfl
@[simp] theorem StatusRegs.completed_errB (r : StatusRegs) : r.completed.errB = r.errB := rfl
@[simp] theorem StatusRegs.completed_cmdCnt (r : StatusRegs) : r.completed.cmdCnt = r.cmdCnt + 1 := rfl

@[simp] theorem StatusRegs.raised_lastErr (r : StatusRegs) (e : CommandError) : (r.raised e).lastErr = e.code := rfl
@[simp] theorem StatusRegs.raised_sticky (r : StatusRegs) (e : CommandError) : (r.raised e).sticky = true := rfl
@[simp] theorem StatusRegs.raised_errA (r : StatusRegs) (e : CommandError) : (r.raised e).errA = e.infoA := rfl
@[simp] theorem StatusRegs.raised_errB (r : StatusRegs) (e : CommandError) : (r.raised e).errB = e.infoB := rfl
@[simp] theorem StatusRegs.raised_cmdCnt (r : StatusRegs) (e : CommandError) : (r.raised e).cmdCnt = r.cmdCnt + 1 := rfl

@[simp] theorem StatusRegs.clearSticky_lastErr (r : StatusRegs) : r.clearSticky.lastErr = r.lastErr := rfl
@[simp] theorem StatusRegs.clearSticky_sticky (r : StatusRegs) : r.clearSticky.sticky = false := rfl
@[simp] theorem StatusRegs.clearSticky_errA (r : StatusRegs) : r.clearSticky.errA = r.errA := rfl
@[simp] theorem StatusRegs.clearSticky_errB (r : StatusRegs) : r.clearSticky.errB = r.errB := rfl
@[simp] theorem StatusRegs.clearSticky_cmdCnt (r : StatusRegs) : r.clearSticky.cmdCnt = r.cmdCnt := rfl

end Sys2Proof.Machine
end

