-- ==== Sys2Proof/Laws/Command.lean ====
section
/-! SUPPORT. What a command can do, said once: `exec` is the conclusion of the command's body, which either fails a check or
gives the state with all the command's writes. And what one host event can do. -/

namespace Sys2Proof.Machine

/-- The writes of a command, or the error its checks find first. -/
def body (i : Instr) (s : State) : Except CommandError State :=
  match i with
  | .nop => .ok s
  | .errclr => .ok (s.setStat s.stat.clearSticky)
  | .pxnew px fmt => do
    let tag ← tagOf fmt
    return s.setPx px { tag := tag, c1 := s.opnd.c1, c2 := s.opnd.c2, c3 := s.opnd.c3 }
  | .pxr px => .ok ((s.setRes ((s.px.get px).channelBits s.draws .r)).draw 1)
  | .pxg px => .ok ((s.setRes ((s.px.get px).channelBits s.draws .g)).draw 1)
  | .pxb px => .ok ((s.setRes ((s.px.get px).channelBits s.draws .b)).draw 1)
  | .pxy px => .ok ((s.setRes ((s.px.get px).channelBits s.draws .y)).draw 1)
  | .pxcb px => .ok ((s.setRes ((s.px.get px).channelBits s.draws .cb)).draw 1)
  | .pxcr px => .ok ((s.setRes ((s.px.get px).channelBits s.draws .cr)).draw 1)
  | .mnew => do
    checkCapacity s.plat s.opnd
    return s.setMat (PixelMatrix.new s.opnd.argh.toNat s.opnd.argw.toNat)
  | .mget px => do
    checkInside s.mat s.opnd
    return s.setPx px (s.mat.cell s.opnd.row.toNat s.opnd.col.toNat)
  | .mset px => do
    checkInside s.mat s.opnd
    return s.setMat (s.mat.setCell s.opnd.row.toNat s.opnd.col.toNat (s.px.get px))
  | .mfrr => do
    checkCapacity s.plat s.opnd
    checkFootprint s.plat .rd s.opnd
    return s.setMat (matrixFromRaster s.raster s.opnd)
  | .mtor => do
    s.checkExport
    return (s.setRaster (s.raster.writeAll s.exportWrites)).draw s.exportCount
  | .dcta prec => do
    checkExtentsAndParts s.opnd
    return s.transformed prec (laneOrder s.opnd.gw.toNat s.opnd.gh.toNat s.opnd.npart.toNat)
      (cellAFwd prec s.opnd.gw.toNat s.opnd.gh.toNat (s.gin.value prec))
  | .idcta prec => do
    checkExtentsAndParts s.opnd
    return s.transformed prec (laneOrder s.opnd.gw.toNat s.opnd.gh.toNat s.opnd.npart.toNat)
      (cellAInv prec s.opnd.gw.toNat s.opnd.gh.toNat (s.gin.value prec))
  | .dctb prec => do
    checkExtents s.opnd
    return s.transformed prec (gridCells s.opnd.gw.toNat s.opnd.gh.toNat)
      (cellBFwd prec s.opnd.gw.toNat s.opnd.gh.toNat (s.gin.value prec))
  | .idctb prec => do
    checkExtents s.opnd
    return s.transformed prec (gridCells s.opnd.gw.toNat s.opnd.gh.toNat)
      (cellBInv prec s.opnd.gw.toNat s.opnd.gh.toNat (s.gin.value prec))
  | .gmov => .ok (s.setGin s.gout)

/-- Every command concludes its body (R101, R274). -/
theorem exec_eq_conclude (i : Instr) (s : State) : exec i s = s.conclude (body i s) := by
  cases i <;> rfl

/-- A command completes or raises; it never stops the machine. -/
theorem conclude_cases {s t : State} {r : Except CommandError State} (h : s.conclude r = .next t) :
    (∃ u, r = .ok u ∧ t = u.complete) ∨ ∃ e, r = .error e ∧ t = s.raiseError e := by
  cases r with
  | ok u => exact .inl ⟨u, rfl, by simpa [State.conclude] using h.symm⟩
  | error e => exact .inr ⟨e, rfl, by simpa [State.conclude] using h.symm⟩

/-- The inversion lemma of `exec`: a next state is a completed body, or the start state with the error taken. -/
theorem exec_cases {i : Instr} {s t : State} (h : exec i s = .next t) :
    (∃ u, body i s = .ok u ∧ t = u.complete) ∨ ∃ e, body i s = .error e ∧ t = s.raiseError e :=
  conclude_cases (exec_eq_conclude i s ▸ h)

/-- What a check followed by writes gives when it is an error: the check failed. -/
theorem bind_error {c : Except CommandError Unit} {u : State} {e : CommandError}
    (h : (do c; return u : Except CommandError State) = .error e) : c = .error e := by
  cases c with
  | ok _ => cases h
  | error e' => exact congrArg _ (by injection h)

/-- What a check followed by writes gives when it is a state: the check passed and the state is the writes. -/
theorem bind_ok {c : Except CommandError Unit} {u v : State}
    (h : (do c; return u : Except CommandError State) = .ok v) : c = .ok () ∧ v = u := by
  cases c with
  | ok _ => exact ⟨rfl, by injection h with h; exact h.symm⟩
  | error e' => cases h

/-! ### When each check passes -/

theorem checkFootprint_ok_iff (p : Platform) (dir : Dir) (o : OperandRegs) :
    checkFootprint p dir o = .ok () ↔ ∀ a ∈ footprint o, accessible p dir a = true := by
  unfold checkFootprint
  cases h : firstBadByte p dir o with
  | none => simpa [firstBadByte] using h
  | some a =>
    have := List.find?_some h
    have hm := List.mem_of_find?_eq_some h
    simp only [reduceCtorEq, false_iff, not_forall]
    exact ⟨a, hm, by simpa using this⟩

theorem checkCapacity_ok_iff (p : Platform) (o : OperandRegs) :
    checkCapacity p o = .ok () ↔ fitsMatrix p (pad8 o.argh.toNat) (pad8 o.argw.toNat) = true := by
  unfold checkCapacity
  split <;> simp_all

theorem checkInside_ok_iff (m : PixelMatrix) (o : OperandRegs) :
    checkInside m o = .ok () ↔ o.row.toNat < m.height.toNat ∧ o.col.toNat < m.width.toNat := by
  unfold checkInside
  split <;> simp_all [PixelMatrix.inside]

theorem checkExtents_ok_iff (o : OperandRegs) :
    checkExtents o = .ok () ↔
      (1 ≤ o.gw.toNat ∧ o.gw.toNat ≤ Config.nmax) ∧ 1 ≤ o.gh.toNat ∧ o.gh.toNat ≤ Config.nmax := by
  unfold checkExtents
  split
  · simp only [reduceCtorEq, false_iff]
    omega
  · split
    · simp only [reduceCtorEq, false_iff]
      omega
    · simp only [true_iff]
      omega

theorem checkExtentsAndParts_ok_iff (o : OperandRegs) :
    checkExtentsAndParts o = .ok () ↔
      ((1 ≤ o.gw.toNat ∧ o.gw.toNat ≤ Config.nmax) ∧ 1 ≤ o.gh.toNat ∧ o.gh.toNat ≤ Config.nmax) ∧ 1 ≤ o.npart.toNat := by
  rw [← checkExtents_ok_iff]
  unfold checkExtentsAndParts
  cases checkExtents o with
  | error e => simp [bind, Except.bind]
  | ok u =>
    simp only [bind, Except.bind]
    split
    · simp only [reduceCtorEq, false_iff]
      omega
    · simp only [true_and, true_iff]
      omega

/-! ### One host event -/

/-- The inversion lemma of `step`: with no event the state is held; otherwise the first event happens in the state without it. -/
theorem step_cases {s t : State} (h : step s = .next t) :
    (s.host = [] ∧ t = s) ∨ ∃ e rest, s.host = e :: rest ∧ (s.setHost rest).runEvent e = .next t := by
  unfold step at h
  split at h
  · next hh => exact .inl ⟨hh, by simpa using h.symm⟩
  · next e rest hh => exact .inr ⟨e, rest, hh, h⟩

/-- What one host event can do, guards included. -/
theorem runEvent_cases {s t : State} {e : HostEvent} (h : s.runEvent e = .next t) :
    (∃ off v, e = .wr off v ∧ alignedOffset off = true ∧ off ≠ HostReg.cmd.offset ∧ t = s.busWrite off v) ∨
    (∃ w i, e = .wr HostReg.cmd.offset w ∧ decode w = .ok i ∧ exec i s = .next t) ∨
    (∃ w x, e = .wr HostReg.cmd.offset w ∧ decode w = .error x ∧ t = s.raiseError (.illegalCommand w)) ∨
    (∃ off, e = .rd off ∧ alignedOffset off = true ∧ t = s.logRead (s.busRead off)) ∨
    (e = .reset ∧ t = s.applyReset) ∨
    (∃ w n, e = .resetDuring w n ∧ t = s.resetDuring w n) ∨
    (∃ a v, e = .poke a v ∧ t = s.setRaster (s.raster.write a.toNat v)) := by
  cases e with
  | wr off v =>
    simp only [State.runEvent, State.hostWrite] at h
    split at h
    · next ha =>
      split at h
      · next hc =>
        subst hc
        simp only [State.runCommand] at h
        split at h
        · next i hi => exact .inr (.inl ⟨v, i, rfl, hi, h⟩)
        · next x hx => exact .inr (.inr (.inl ⟨v, x, rfl, hx, by simpa using h.symm⟩))
      · next hc => exact .inl ⟨off, v, rfl, ha, hc, by simpa using h.symm⟩
    · cases h
  | rd off =>
    simp only [State.runEvent, State.hostRead] at h
    split at h
    · next ha => exact .inr (.inr (.inr (.inl ⟨off, rfl, ha, by simpa using h.symm⟩)))
    · cases h
  | narrow off n => cases h
  | reset => exact .inr (.inr (.inr (.inr (.inl ⟨rfl, by simpa [State.runEvent] using h.symm⟩))))
  | resetDuring w n =>
    exact .inr (.inr (.inr (.inr (.inr (.inl ⟨w, n, rfl, by simpa [State.runEvent] using h.symm⟩)))))
  | poke a v =>
    exact .inr (.inr (.inr (.inr (.inr (.inr ⟨a, v, rfl, by simpa [State.runEvent] using h.symm⟩)))))

end Sys2Proof.Machine
end

