-- ==== Sys2Proof/Laws/Float.lean ====
section
/-! SUPPORT. The laws of the arithmetic: rounding is exact where the format holds the number, its result is always a number of
the format, and a NaN operand gives a NaN. -/

namespace Sys2Proof

theorem roundDiv_of_dvd {n d : Nat} (hd : 0 < d) (h : d ∣ n) : roundDiv n d = n / d := by
  have : n % d = 0 := Nat.mod_eq_zero_of_dvd h
  simp [roundDiv, this, hd]

theorem roundDiv_le (n d : Nat) : roundDiv n d ≤ n / d + 1 := by
  unfold roundDiv
  split
  · omega
  · split
    · omega
    · have := Nat.mod_lt (n / d) (y := 2) (by decide)
      omega

theorem le_roundDiv (n d : Nat) : n / d ≤ roundDiv n d := by
  unfold roundDiv
  split
  · omega
  · split <;> omega

/-- Rounding leaves a number that has at most `fracBits + 1` significant bits. -/
theorem rnMag_of_significant (F : Prec) {m k e : Nat} (hk : k < 2 ^ (F.fracBits + 1)) (hm : m = k * 2 ^ e) :
    rnMag F m 1 = m := by
  have hdvd : 2 ^ spacing F m 1 ∣ m := by
    rcases Nat.eq_zero_or_pos k with rfl | hpos
    · simp [hm]
    · have hlog : m.log2 ≤ F.fracBits + e := by
        have hlt : m < 2 ^ (F.fracBits + e + 1) := by
          calc m = k * 2 ^ e := hm
            _ < 2 ^ (F.fracBits + 1) * 2 ^ e := Nat.mul_lt_mul_of_pos_right hk (Nat.two_pow_pos e)
            _ = 2 ^ (F.fracBits + e + 1) := by rw [← pow_add]; congr 1; omega
        have hne : m ≠ 0 := by
          have := Nat.two_pow_pos e
          rw [hm]
          exact (Nat.mul_pos hpos this).ne'
        have := (Nat.log2_lt hne).mpr hlt
        omega
      have hs : spacing F m 1 ≤ e := by
        simp only [spacing, Nat.div_one]
        omega
      exact (Nat.pow_dvd_pow 2 hs).trans (hm ▸ Nat.dvd_mul_left _ _)
  unfold rnMag
  rw [one_mul, roundDiv_of_dvd (Nat.two_pow_pos _) hdvd]
  exact Nat.div_mul_cancel hdvd

/-- A rounded magnitude has at most `fracBits + 1` significant bits. -/
theorem rnMag_significant (F : Prec) (n d : Nat) :
    ∃ k e, k < 2 ^ (F.fracBits + 1) ∧ rnMag F n d = k * 2 ^ e := by
  have hq : n / (d * 2 ^ spacing F n d) < 2 ^ (F.fracBits + 1) := by
    rw [← Nat.div_div_eq_div_mul, Nat.div_lt_iff_lt_mul (Nat.two_pow_pos _), ← pow_add]
    rcases Nat.eq_zero_or_pos (n / d) with h | h
    · rw [h]
      exact Nat.two_pow_pos _
    · refine (Nat.log2_lt h.ne').mp ?_
      unfold spacing
      omega
  rcases Nat.lt_or_ge (roundDiv n (d * 2 ^ spacing F n d)) (2 ^ (F.fracBits + 1)) with h | h
  · exact ⟨_, _, h, rfl⟩
  · have hle := roundDiv_le n (d * 2 ^ spacing F n d)
    have heq : roundDiv n (d * 2 ^ spacing F n d) = 2 ^ (F.fracBits + 1) := by omega
    refine ⟨2 ^ F.fracBits, spacing F n d + 1, Nat.pow_lt_pow_right (by decide) (Nat.lt_succ_self _), ?_⟩
    unfold rnMag
    rw [heq, pow_succ, pow_succ]
    ring

/-- The result of every rounding is a value of the format. -/
theorem rn_ofFormat (F : Prec) (s : Bool) (n d : Nat) : (rn F s n d).ofFormat F := by
  unfold rn
  split
  · next h => exact ⟨h, rnMag_significant F n d⟩
  · trivial

/-- Rounding leaves a number of the format (R12). -/
theorem rn_of_holds (F : Prec) (s : Bool) {m : Nat} (h : F.holds m) : rn F s m 1 = .fin s m := by
  obtain ⟨hlt, k, e, hk, hm⟩ := h
  rw [rn, rnMag_of_significant F hk hm, if_pos hlt]

@[simp] theorem fadd_nan_left (F : Prec) (y : FVal) : fadd F .nan y = .nan := by cases y <;> rfl
@[simp] theorem fadd_nan_right (F : Prec) (x : FVal) : fadd F x .nan = .nan := by cases x <;> rfl
@[simp] theorem fsub_nan_left (F : Prec) (y : FVal) : fsub F .nan y = .nan := by cases y <;> rfl
@[simp] theorem fsub_nan_right (F : Prec) (x : FVal) : fsub F x .nan = .nan := by cases x <;> rfl
@[simp] theorem fmul_nan_left (F : Prec) (y : FVal) : fmul F .nan y = .nan := by cases y <;> rfl
@[simp] theorem fmul_nan_right (F : Prec) (x : FVal) : fmul F x .nan = .nan := by cases x <;> rfl
@[simp] theorem fdiv_nan_left (F : Prec) (y : FVal) : fdiv F .nan y = .nan := by cases y <;> rfl
@[simp] theorem fdiv_nan_right (F : Prec) (x : FVal) : fdiv F x .nan = .nan := by cases x <;> rfl

end Sys2Proof
end

