-- ==== Sys2Proof/Laws/Grid.lean ====
section
/-! SUPPORT. The laws of the grid buffers: a read after a write, a write elsewhere, and what a list of writes leaves. -/

namespace Sys2Proof.Machine

theorem Grid.index_lt {a b : Nat} (ha : a < Config.nmax) (hb : b < Config.nmax) : Config.nmax * a + b < 64 := by
  unfold Config.nmax at *
  omega

theorem Grid.get_put_same (g : Grid) (a b : Nat) (c : Container) (ha : a < Config.nmax) (hb : b < Config.nmax) :
    (g.put a b c).get a b = c := by
  have h := Grid.index_lt ha hb
  simp [Grid.get, Grid.put, List.getD_eq_getElem?_getD, h]

theorem Grid.get_put_ne (g : Grid) (a b i j : Nat) (c : Container) (hb : b < Config.nmax) (hj : j < Config.nmax)
    (h : ¬(i = a ∧ j = b)) : (g.put a b c).get i j = g.get i j := by
  have hne : Config.nmax * a + b ≠ Config.nmax * i + j := by
    unfold Config.nmax at *
    omega
  simp [Grid.get, Grid.put, List.getD_eq_getElem?_getD, List.getElem?_set_ne hne]

theorem mem_gridCells {W H a b : Nat} : (a, b) ∈ gridCells W H ↔ a < W ∧ b < H := by
  simp [gridCells]

theorem Grid.get_build (f : Nat → Nat → Container) (a b : Nat) (ha : a < Config.nmax) (hb : b < Config.nmax) :
    (Grid.build f).get a b = f a b := by
  unfold Config.nmax at ha hb
  interval_cases a <;> interval_cases b <;> rfl

/-- Two grids are equal when all their containers are. -/
theorem Grid.ext_get {g h : Grid} (hgh : ∀ a b, a < Config.nmax → b < Config.nmax → g.get a b = h.get a b) : g = h := by
  have key : ∀ i : Fin 64, g[i] = h[i] := by
    intro i
    have hd : i.val / 8 < Config.nmax ∧ i.val % 8 < Config.nmax := by
      unfold Config.nmax
      omega
    have := hgh (i.val / 8) (i.val % 8) hd.1 hd.2
    have e : Config.nmax * (i.val / 8) + i.val % 8 = i.val := Nat.div_add_mod i.val 8
    simpa [Grid.get, e, List.getD_eq_getElem?_getD] using this
  apply Vector.ext
  intro i hi
  exact key ⟨i, hi⟩

/-- A container that the list of writes names holds the value of its cell, whatever the order and however often it is named. -/
theorem Grid.get_putAll_of_mem (cell : Nat → Nat → Container) (order : List (Nat × Nat)) (g : Grid) (a b : Nat)
    (hin : ∀ ab ∈ order, ab.1 < Config.nmax ∧ ab.2 < Config.nmax) (h : (a, b) ∈ order) :
    (g.putAll cell order).get a b = cell a b := by
  have aux : ∀ (order : List (Nat × Nat)) (g : Grid), (∀ ab ∈ order, ab.1 < Config.nmax ∧ ab.2 < Config.nmax) →
      ((a, b) ∈ order ∨ g.get a b = cell a b) → b < Config.nmax → (g.putAll cell order).get a b = cell a b := by
    intro order
    induction order with
    | nil => intro g _ h _; simpa [Grid.putAll] using h
    | cons x l ih =>
      intro g hin h hb
      have hx := hin x (List.mem_cons_self ..)
      refine ih _ (fun ab hab => hin ab (List.mem_cons_of_mem _ hab)) ?_ hb
      by_cases hxe : x = (a, b)
      · subst hxe
        exact .inr (Grid.get_put_same g _ _ _ hx.1 hx.2)
      · rcases h with h | h
        · rcases List.mem_cons.mp h with h | h
          · exact absurd h.symm hxe
          · exact .inl h
        · refine .inr ((Grid.get_put_ne g _ _ _ _ _ hx.2 hb fun hab => hxe ?_).trans h)
          exact Prod.ext hab.1.symm hab.2.symm
  exact aux order g hin (.inl h) (hin _ h).2

/-- The containers outside the grid are 0 after the clearing, those inside are kept (R217). -/
theorem Grid.get_clearOutside (W H : Nat) (g : Grid) (a b : Nat) (ha : a < Config.nmax) (hb : b < Config.nmax) :
    (g.clearOutside W H).get a b = if a < W ∧ b < H then g.get a b else 0 :=
  Grid.get_build _ a b ha hb

end Sys2Proof.Machine
end

