-- ==== Sys2Proof/Laws/Lanes.lean ====
section
/-! SUPPORT. The lists the operand forms produce: the cells the lanes compute, the pixels and bytes of a raster. -/

namespace Sys2Proof.Machine

theorem mem_partIndices {W P p a : Nat} : a ∈ partIndices W P p ↔ partStart W P p ≤ a ∧ a < partEnd W P p := by
  simp only [partIndices, List.mem_map, List.mem_range]
  constructor
  · rintro ⟨k, hk, rfl⟩
    omega
  · rintro ⟨h1, h2⟩
    exact ⟨a - partStart W P p, by omega, by omega⟩

/-- The cells the lanes compute are exactly the cells of the grid, for every partition count (R210, R211). -/
theorem mem_laneOrder {W H P a b : Nat} (hP : 0 < P) : (a, b) ∈ laneOrder W H P ↔ a < W ∧ b < H := by
  have hcells : ∀ p, (a, b) ∈ partCells W H P p ↔ (partStart W P p ≤ a ∧ a < partEnd W P p) ∧ b < H := by
    intro p
    simp [partCells, mem_partIndices]
  simp only [laneOrder, List.mem_flatMap, hcells]
  constructor
  · rintro ⟨p, hp, ⟨h1, h2⟩, hb⟩
    refine ⟨Nat.lt_of_lt_of_le h2 ?_, hb⟩
    unfold partEnd
    split
    · exact le_rfl
    · have hpP : p + 1 ≤ P := by
        unfold liveParts at hp
        split at hp
        · simpa using hp
        · simp only [List.mem_singleton] at hp
          omega
      exact (Nat.mul_le_mul_right _ hpP).trans (Nat.mul_div_le W P)
  · rintro ⟨ha, hb⟩
    by_cases hPW : P ≤ W
    · have hc : 0 < W / P := Nat.div_pos hPW hP
      by_cases hlast : (P - 1) * (W / P) ≤ a
      · refine ⟨P - 1, by simp only [liveParts, if_pos hPW, List.mem_range]; omega, ⟨hlast, ?_⟩, hb⟩
        simp [partEnd, ha]
      · have hlt : a / (W / P) < P - 1 := by
          rw [Nat.div_lt_iff_lt_mul hc]
          omega
        refine ⟨a / (W / P), by simp only [liveParts, if_pos hPW, List.mem_range]; omega,
          ⟨Nat.div_mul_le_self a _, ?_⟩, hb⟩
        rw [partEnd, if_neg (by omega)]
        rw [Nat.mul_comm]
        exact Nat.lt_mul_div_succ a hc
    · have hz : W / P = 0 := Nat.div_eq_of_lt (by omega)
      exact ⟨P - 1, by simp [liveParts, if_neg hPW], ⟨by simp [partStart, hz], by simp [partEnd, ha]⟩, hb⟩

theorem mem_rasterPixels {h w r c : Nat} : (r, c) ∈ rasterPixels h w ↔ r < h ∧ c < w := by
  unfold rasterPixels
  split
  · next hw => simp [hw]
  · simp

theorem mem_rasterPoints {h w : Nat} {p : RasterPoint} :
    p ∈ rasterPoints h w ↔ p.row < h ∧ p.col < w ∧ p.byte < 3 := by
  simp only [rasterPoints, List.mem_flatMap, Prod.exists, mem_rasterPixels, List.mem_cons, List.not_mem_nil, or_false]
  constructor
  · rintro ⟨r, c, ⟨hr, hc⟩, rfl | rfl | rfl⟩ <;> exact ⟨hr, hc, by simp⟩
  · rintro ⟨hr, hc, hb⟩
    refine ⟨p.row, p.col, ⟨hr, hc⟩, ?_⟩
    obtain ⟨r, c, b⟩ := p
    have : b = 0 ∨ b = 1 ∨ b = 2 := by
      simp only at hb
      omega
    rcases this with rfl | rfl | rfl <;> simp

end Sys2Proof.Machine
end

