-- ==== Sys2Proof/Laws/PerInstr.lean ====
section
/-! SUPPORT. The family `TableRow`: the encoder's word of a command lies in that command's row of spec/opcode_table.json, whose
`mask` and `match` are written here from the table. -/

namespace Sys2Proof.Laws.TableRow

/-- The row's `mask` (R102..R105). -/
def mask : Instr → Word
  | .nop => 0xFFFFFFFF
  | .errclr => 0xFFFFFFFF
  | .pxnew _ _ => 0xFF00FCFF
  | .pxr _ => 0xFFFFFCFF
  | .pxg _ => 0xFFFFFCFF
  | .pxb _ => 0xFFFFFCFF
  | .pxy _ => 0xFFFFFCFF
  | .pxcb _ => 0xFFFFFCFF
  | .pxcr _ => 0xFFFFFCFF
  | .mnew => 0xFFFFFFFF
  | .mget _ => 0xFFFFFCFF
  | .mset _ => 0xFFFFFCFF
  | .mfrr => 0xFFFFFFFF
  | .mtor => 0xFFFFFFFF
  | .dcta _ => 0xFFFFFEFF
  | .idcta _ => 0xFFFFFEFF
  | .dctb _ => 0xFFFFFEFF
  | .idctb _ => 0xFFFFFEFF
  | .gmov => 0xFFFFFFFF

/-- The row's `match`. -/
def value : Instr → Word
  | .nop => 0x00
  | .errclr => 0x01
  | .pxnew _ _ => 0x10
  | .pxr _ => 0x11
  | .pxg _ => 0x12
  | .pxb _ => 0x13
  | .pxy _ => 0x14
  | .pxcb _ => 0x15
  | .pxcr _ => 0x16
  | .mnew => 0x20
  | .mget _ => 0x21
  | .mset _ => 0x22
  | .mfrr => 0x23
  | .mtor => 0x24
  | .dcta _ => 0x30
  | .idcta _ => 0x31
  | .dctb _ => 0x32
  | .idctb _ => 0x33
  | .gmov => 0x38

/-- The encoder's word of a command has the fixed bits of the command's table row. -/
def Statement (i : Instr) : Prop := encode i &&& mask i = value i

theorem word_px (op : BitVec 8) (px : Fin 4) : wordP op px &&& 0xFFFFFCFF = 0#24 ++ op := by
  revert op px
  decide +kernel

theorem word_prec (op : BitVec 8) (p : Prec) : wordT op p &&& 0xFFFFFEFF = 0#24 ++ op := by
  cases p <;> revert op <;> decide +kernel

theorem nop : Statement .nop := rfl
theorem errclr : Statement .errclr := rfl
theorem pxnew (px : Fin 4) (fmt : Nat) : Statement (.pxnew px fmt) := by
  have : ∀ (f : BitVec 8) (px : Fin 4),
      (0#8 ++ f ++ 0#6 ++ BitVec.ofNat 2 px.val ++ 0x10#8 : Word) &&& 0xFF00FCFF = 0x10 := by decide +kernel
  exact this (BitVec.ofNat 8 fmt) px
theorem pxr (px : Fin 4) : Statement (.pxr px) := word_px _ px
theorem pxg (px : Fin 4) : Statement (.pxg px) := word_px _ px
theorem pxb (px : Fin 4) : Statement (.pxb px) := word_px _ px
theorem pxy (px : Fin 4) : Statement (.pxy px) := word_px _ px
theorem pxcb (px : Fin 4) : Statement (.pxcb px) := word_px _ px
theorem pxcr (px : Fin 4) : Statement (.pxcr px) := word_px _ px
theorem mnew : Statement .mnew := rfl
theorem mget (px : Fin 4) : Statement (.mget px) := word_px _ px
theorem mset (px : Fin 4) : Statement (.mset px) := word_px _ px
theorem mfrr : Statement .mfrr := rfl
theorem mtor : Statement .mtor := rfl
theorem dcta (p : Prec) : Statement (.dcta p) := word_prec _ p
theorem idcta (p : Prec) : Statement (.idcta p) := word_prec _ p
theorem dctb (p : Prec) : Statement (.dctb p) := word_prec _ p
theorem idctb (p : Prec) : Statement (.idctb p) := word_prec _ p
theorem gmov : Statement .gmov := rfl

end Sys2Proof.Laws.TableRow
end

