-- ==== Sys2Proof/Laws/Sparse.lean ====
section
/-! SUPPORT. The laws of sparse lists, and with them of raster memory and of the Matrix: a read after a write, what a write
leaves alone, and that every write keeps the canonical form. -/

namespace Sys2Proof.Machine

variable {α : Type}

theorem sparseGet_of_lt (d : α) {m : List (Nat × α)} {k : Nat} (h : ∀ e ∈ m, k < e.1) : sparseGet d m k = d := by
  induction m with
  | nil => rfl
  | cons e m ih =>
    obtain ⟨k', v'⟩ := e
    have hk : k < k' := h _ (List.mem_cons_self ..)
    rw [sparseGet, if_neg (by omega)]
    exact ih fun e he => h e (List.mem_cons_of_mem _ he)

section
variable [DecidableEq α]

/-- Reading another key after a write. -/
theorem sparseGet_set_ne (d : α) (m : List (Nat × α)) (k j : Nat) (v : α) (h : j ≠ k) :
    sparseGet d (sparseSet d m k v) j = sparseGet d m j := by
  induction m with
  | nil => unfold sparseSet; split <;> simp [sparseGet, h]
  | cons e m ih =>
    obtain ⟨k', v'⟩ := e
    unfold sparseSet
    split
    · split <;> simp [sparseGet, h]
    · split
      · subst k'
        split <;> simp [sparseGet, h]
      · simp [sparseGet, ih]

/-- Reading the key just written, in a list in canonical form. -/
theorem sparseGet_set_same (d : α) (b : Nat) (m : List (Nat × α)) (k : Nat) (v : α) (h : sparseWf d b m) :
    sparseGet d (sparseSet d m k v) k = v := by
  induction m with
  | nil =>
    unfold sparseSet
    split
    · next hv => simp [sparseGet, hv]
    · simp [sparseGet]
  | cons e m ih =>
    obtain ⟨k', v'⟩ := e
    have hp := List.pairwise_cons.mp h.1
    unfold sparseSet
    split
    · next hk =>
      split
      · next hv =>
        subst hv
        refine sparseGet_of_lt v fun e he => ?_
        rcases List.mem_cons.mp he with rfl | he
        · exact hk
        · exact Nat.lt_trans hk (hp.1 e he)
      · simp [sparseGet]
    · split
      · subst k'
        split
        · next hv =>
          subst hv
          exact sparseGet_of_lt v fun e he => hp.1 e he
        · simp [sparseGet]
      · next hk =>
        rw [sparseGet, if_neg hk]
        exact ih ⟨hp.2, fun e he => h.2 e (List.mem_cons_of_mem _ he)⟩

/-- A key of the list after a write is the written key or was there before. -/
theorem mem_sparseSet (d : α) (m : List (Nat × α)) (k : Nat) (v : α) {e : Nat × α} (he : e ∈ sparseSet d m k v) :
    (e = (k, v) ∧ v ≠ d) ∨ e ∈ m := by
  induction m with
  | nil =>
    unfold sparseSet at he
    split at he
    · simp at he
    · next hv => exact .inl ⟨by simpa using he, hv⟩
  | cons x m ih =>
    obtain ⟨k', v'⟩ := x
    unfold sparseSet at he
    split at he
    · split at he
      · exact .inr he
      · next hv =>
        rcases List.mem_cons.mp he with rfl | he
        · exact .inl ⟨rfl, hv⟩
        · exact .inr he
    · split at he
      · split at he
        · exact .inr (List.mem_cons_of_mem _ he)
        · next hv =>
          rcases List.mem_cons.mp he with rfl | he
          · exact .inl ⟨rfl, hv⟩
          · exact .inr (List.mem_cons_of_mem _ he)
      · rcases List.mem_cons.mp he with rfl | he
        · exact .inr (List.mem_cons_self ..)
        · rcases ih he with h | h
          · exact .inl h
          · exact .inr (List.mem_cons_of_mem _ h)

/-- A write keeps the canonical form. -/
theorem sparseSet_wf (d : α) (b : Nat) (m : List (Nat × α)) (k : Nat) (v : α) (h : sparseWf d b m) (hk : k < b) :
    sparseWf d b (sparseSet d m k v) := by
  refine ⟨?_, fun e he => ?_⟩
  · induction m with
    | nil => unfold sparseSet; split <;> simp
    | cons x m ih =>
      obtain ⟨k', v'⟩ := x
      have hp := List.pairwise_cons.mp h.1
      have hm : sparseWf d b m := ⟨hp.2, fun e he => h.2 e (List.mem_cons_of_mem _ he)⟩
      unfold sparseSet
      split
      · next hlt =>
        split
        · exact h.1
        · refine List.pairwise_cons.mpr ⟨fun e he => ?_, h.1⟩
          rcases List.mem_cons.mp he with rfl | he
          · exact hlt
          · exact Nat.lt_trans hlt (hp.1 e he)
      · split
        · subst k'
          split
          · exact hp.2
          · exact List.pairwise_cons.mpr ⟨fun e he => hp.1 e he, hp.2⟩
        · next h1 h2 =>
          refine List.pairwise_cons.mpr ⟨fun e he => ?_, ih hm⟩
          rcases mem_sparseSet d m k v he with ⟨rfl, _⟩ | he
          · show k' < k
            omega
          · exact hp.1 e he
  · rcases mem_sparseSet d m k v he with ⟨rfl, hv⟩ | he
    · exact ⟨hk, hv⟩
    · exact h.2 e he

end

/-! ### Raster memory -/

theorem Memory.read_write_ne (m : Memory) (a j : Nat) (v : Byte) (h : j ≠ a) : (m.write a v).read j = m.read j :=
  sparseGet_set_ne _ m a j v h

theorem Memory.read_write_same (m : Memory) (a : Nat) (v : Byte) (h : m.wf) : (m.write a v).read a = v :=
  sparseGet_set_same _ _ m a v h

theorem Memory.write_wf (m : Memory) (a : Nat) (v : Byte) (h : m.wf) (ha : a < 2 ^ 32) : (m.write a v).wf :=
  sparseSet_wf _ _ m a v h ha

theorem Memory.writeAll_wf (l : List (Nat × Byte)) (m : Memory) (h : m.wf) (ha : ∀ e ∈ l, e.1 < 2 ^ 32) :
    (m.writeAll l).wf := by
  induction l generalizing m with
  | nil => exact h
  | cons e l ih =>
    exact ih _ (m.write_wf _ _ h (ha e (List.mem_cons_self ..))) fun x hx => ha x (List.mem_cons_of_mem _ hx)

/-- A list of writes leaves every address it does not name. -/
theorem Memory.read_writeAll_of_not_mem (l : List (Nat × Byte)) (m : Memory) (a : Nat) (h : ∀ e ∈ l, e.1 ≠ a) :
    (m.writeAll l).read a = m.read a := by
  induction l generalizing m with
  | nil => rfl
  | cons e l ih =>
    have he := h e (List.mem_cons_self ..)
    exact (ih _ fun x hx => h x (List.mem_cons_of_mem _ hx)).trans (m.read_write_ne _ _ _ (Ne.symm he))

theorem Memory.writeAll_append (l₁ l₂ : List (Nat × Byte)) (m : Memory) :
    m.writeAll (l₁ ++ l₂) = (m.writeAll l₁).writeAll l₂ := by
  simp [Memory.writeAll]

end Sys2Proof.Machine
end

