-- ==== Sys2Proof/Machine/Assembler.lean ====
section
/-! DEFINITION. The notation of CORE programs (R110, R111): a program is a list of host transactions, and each pseudo-instruction
is the list it expands to. -/

namespace Sys2Proof.Machine.Asm

/-- `wr REG, v` (R110). -/
def wr (r : HostReg) (v : Word) : HostEvent := .wr r.offset v

/-- `rd REG` (R110). -/
def rd (r : HostReg) : HostEvent := .rd r.offset

/-- A mnemonic line: `wr(CMD, word)` (R110). -/
def cmd (i : Instr) : HostEvent := .wr HostReg.cmd.offset (encode i)

/-- `wrf REG, x` for `x = (-1)^neg * num / den` (R111). -/
def wrf (r : HostReg) (neg : Bool) (num den : Nat) : HostEvent := wr r (bitsS 0 (rnRational .s neg num den))

/-- The field value of a tag name (R110). -/
def tagNumber : Tag → Nat
  | .additive => 0
  | .lumaChroma => 1

/-- `pxset pxN, fmt, x1, x2, x3` (R111), the components as encodings. -/
def pxset (px : Fin 4) (fmt : Nat) (x1 x2 x3 : Word) : List HostEvent :=
  [wr .c1 x1, wr .c2 x2, wr .c3 x3, cmd (.pxnew px fmt)]

/-- The offset of the low or high word of container `(a, b)` of the window at `base` (R41, R111). -/
def containerWordOffset (base a b : Nat) (high : Bool) : Offset :=
  BitVec.ofNat 24 (base + containerOffset a b + if high then 4 else 0)

/-- `gwr.s a, b, x` (R111), `x` as an encoding. -/
def gwrS (a b : Nat) (x : Word) : List HostEvent := [.wr (containerWordOffset ginBase a b false) x]

/-- `gwr.d a, b, x` (R111), `x` as an encoding: low word, then high word. -/
def gwrD (a b : Nat) (x : Container) : List HostEvent :=
  [.wr (containerWordOffset ginBase a b false) (containerWord x false),
    .wr (containerWordOffset ginBase a b true) (containerWord x true)]

/-- `grd.s a, b` (R111). -/
def grdS (a b : Nat) : List HostEvent := [.rd (containerWordOffset goutBase a b false)]

/-- `grd.d a, b` (R111). -/
def grdD (a b : Nat) : List HostEvent :=
  [.rd (containerWordOffset goutBase a b false), .rd (containerWordOffset goutBase a b true)]

/-- `mat.get pxN, r, c` (R111). -/
def matGet (px : Fin 4) (r c : Word) : List HostEvent := [wr .row r, wr .col c, cmd (.mget px)]

/-- `mat.set pxN, r, c` (R111). -/
def matSet (px : Fin 4) (r c : Word) : List HostEvent := [wr .row r, wr .col c, cmd (.mset px)]

/-- `mat.new h, w` (R111). -/
def matNew (h w : Word) : List HostEvent := [wr .argh h, wr .argw w, cmd .mnew]

/-- `raster base, stride, h, w` (R111). -/
def raster (base stride h w : Word) : List HostEvent := [wr .rbase base, wr .rstride stride, wr .argh h, wr .argw w]

end Sys2Proof.Machine.Asm
end

