-- ==== Sys2Proof/Tests/Slice0.lean ====
section
/-! SUPPORT. The model's own tests. The expected values are the worked examples and vectors of the spec (95_test_vectors.md, and
the examples in the rules), and words written out bit by bit from the formats of R102..R105. After them, for every statement with
hypotheses, states and operands that meet them. -/

namespace Sys2Proof.Tests
open Sys2Proof Sys2Proof.Machine Sys2Proof.Claims

-- One theorem after another: the many small kernel checks of this file would otherwise each hold a thread.
set_option Elab.async false

/-! ### Helpers -/

/-- Does the command answer a next state with this property? -/
def after (i : Instr) (s : State) (f : State → Bool) : Bool :=
  match exec i s with
  | .next t => f t
  | .fault _ => false
  | .refused _ => false

/-- Does the step answer a next state with this property? -/
def stepped (s : State) (f : State → Bool) : Bool :=
  match step s with
  | .next t => f t
  | .fault _ => false
  | .refused _ => false

/-- `State.reset` with these events to come. -/
def withEvents (l : List HostEvent) : State := { State.reset with host := l }

/-- `State.reset` with pixel register 0 loaded. -/
def withPixel (tag : Tag) (c1 c2 c3 : Word) : State := State.reset.setPx 0 { tag := tag, c1 := c1, c2 := c2, c3 := c3 }

/-- An 8 × 8 Matrix with these cells that are not Black. -/
def withCells (cells : List (Nat × Pixel)) : State := { State.reset with mat := { height := 8, width := 8, cells := cells } }

/-- The raster and dimension operands. -/
def operands (s : State) (base stride h w : Word) : State :=
  s.setOpnd { s.opnd with rbase := base, rstride := stride, argh := h, argw := w }

/-- The index operands. -/
def index (s : State) (row col : Word) : State := s.setOpnd { s.opnd with row := row, col := col }

/-- The transform operands. -/
def extents (s : State) (gw gh npart : Word) : State := s.setOpnd { s.opnd with gw := gw, gh := gh, npart := npart }

/-- A platform that admits the addresses `lo ≤ a < hi` for reads and writes. -/
def admitting (lo hi : Nat) (s : State) : State :=
  { s with plat := { s.plat with admitted := [{ lo := lo, hi := hi, read := true, write := true }] } }

/-- The 2 × 2 grid of these containers. -/
def grid22 (x00 x01 x10 x11 : Container) : Grid :=
  (((Grid.zero.put 0 0 x00).put 0 1 x01).put 1 0 x10).put 1 1 x11

/-- `State.reset` with a 2 × 2 input grid and these partitions. -/
def with22 (npart : Word) (x00 x01 x10 x11 : Container) : State :=
  (extents State.reset 2 2 npart).setGin (grid22 x00 x01 x10 x11)

/-- An Additive Pixel. -/
def rgb (c1 c2 c3 : Word) : Pixel := { tag := .additive, c1 := c1, c2 := c2, c3 := c3 }

/-- The check an error leaves: `STATUS`, `ERRA`, `ERRB`. -/
def reports (status a b : Word) (t : State) : Bool :=
  t.stat.word == status && t.stat.errA == a && t.stat.errB == b

/-! ### WellFormed -/

theorem test_wf_fmt_too_large : Instr.WellFormed (.pxnew 0 256) = false := by decide
theorem test_wf_fmt_largest : Instr.WellFormed (.pxnew 3 255) = true := by decide

/-! ### Decoding: words written out from the formats of R102..R105 -/

theorem test_decode_nop : decode 0b000000000000000000000000_00000000 = .ok .nop := by decide
theorem test_decode_errclr : decode 0b000000000000000000000000_00000001 = .ok .errclr := by decide
theorem test_decode_pxnew : decode 0b00000000_00000001_000000_10_00010000 = .ok (.pxnew 2 1) := by decide
theorem test_decode_pxnew_last : decode 0b00000000_11111111_000000_11_00010000 = .ok (.pxnew 3 255) := by decide
theorem test_decode_pxr : decode 0b0000000000000000000000_01_00010001 = .ok (.pxr 1) := by decide
theorem test_decode_pxg : decode 0b0000000000000000000000_10_00010010 = .ok (.pxg 2) := by decide
theorem test_decode_pxb : decode 0b0000000000000000000000_11_00010011 = .ok (.pxb 3) := by decide
theorem test_decode_pxy : decode 0b0000000000000000000000_11_00010100 = .ok (.pxy 3) := by decide
theorem test_decode_pxcb : decode 0b0000000000000000000000_00_00010101 = .ok (.pxcb 0) := by decide
theorem test_decode_pxcr : decode 0b0000000000000000000000_01_00010110 = .ok (.pxcr 1) := by decide
theorem test_decode_mnew : decode 0b000000000000000000000000_00100000 = .ok .mnew := by decide
theorem test_decode_mget : decode 0b0000000000000000000000_01_00100001 = .ok (.mget 1) := by decide
theorem test_decode_mset : decode 0b0000000000000000000000_10_00100010 = .ok (.mset 2) := by decide
theorem test_decode_mfrr : decode 0b000000000000000000000000_00100011 = .ok .mfrr := by decide
theorem test_decode_mtor : decode 0b000000000000000000000000_00100100 = .ok .mtor := by decide
theorem test_decode_dcta : decode 0b00000000000000000000000_1_00110000 = .ok (.dcta .d) := by decide
theorem test_decode_idcta : decode 0b00000000000000000000000_0_00110001 = .ok (.idcta .s) := by decide
theorem test_decode_dctb : decode 0b00000000000000000000000_0_00110010 = .ok (.dctb .s) := by decide
theorem test_decode_idctb : decode 0b00000000000000000000000_1_00110011 = .ok (.idctb .d) := by decide
theorem test_decode_gmov : decode 0b000000000000000000000000_00111000 = .ok .gmov := by decide

/-- The illegal words of V-ENC-2. -/
theorem test_decode_illegal :
    [0x00000002#32, 0x000000FF#32, 0x00000100#32, 0x80000000#32, 0x00000410#32, 0x01000010#32, 0x00000711#32, 0x00000230#32,
      0x00000138#32, 0x00000137#32, 0x00000124#32, 0x00000420#32].all (fun w => (decode w).toOption == none) = true := by decide

theorem test_table_word : decodeTableWord 32 0x00000133 = some (.idctb .d) ∧ decodeTableWord 32 0x00000124 = none := by decide

/-! ### The colour constants: the printed encodings of R131 are the literals of R131, each rounded once -/

theorem test_csc_constants :
    [(65738, 0x428379DB#32), (129057, 0x43010E98#32), (24064, 0x41C08312#32), (37945, 0x4217C7AE#32), (74494, 0x4294FCEE#32),
      (112439, 0x42E0E0C5#32), (94154, 0x42BC4ED9#32), (18285, 0x419247AE#32), (16000, 0x41800000#32), (128000, 0x43000000#32),
      (256000, 0x43800000#32), (298082, 0x43950A7F#32), (408583, 0x43CC4AA0#32), (100291, 0x42C894FE#32), (208120, 0x43501EB8#32),
      (516412, 0x44011A5E#32), (222921, 0x435EEBC7#32), (135576, 0x43079375#32), (276836, 0x438A6B02#32)].all
      (fun p => valS p.2 == lit p.1) = true := by decide +kernel

/-! ### The host's registers -/

/-- V-SYS-4: writes that are ignored. -/
theorem test_ignored_writes :
    [0x000000, 0x000008, 0x000048, 0x00004C, 0x200000, 0x00005C, 0x100200].all
      (fun off => stepped (withEvents [.wr off 0x1234]) fun t => decide (t = State.reset)) = true := by decide +kernel

/-- V-SYS-4: constant reads. -/
theorem test_constant_reads :
    (State.reset.busRead 0x000000, State.reset.busRead 0x000054, State.reset.busRead 0x000058, State.reset.busRead 0x000018) =
      (0x44435438, 0x04080408, 0x00100000, 4) := by decide

/-- V-DCT-10 (d): the window's last container. -/
theorem test_gin_window :
    ((State.reset.busWrite 0x1001F8 0x12345678).busWrite 0x1001FC 0xDEADBEEF).gin.get 7 7 = 0xDEADBEEF12345678 := by
  decide +kernel

theorem test_misaligned_refused : step (withEvents [.wr 0x000002 0]) = .refused .misalignedAccess := by rfl
theorem test_narrow_refused : step (withEvents [.narrow 0x000004 1]) = .refused .narrowAccess := by rfl

/-- V-ENC-4: `gwr.d 1, 2, 5.0`. -/
theorem test_gwr_d : Asm.gwrD 1 2 0x4014000000000000 = [.wr 0x100050 0, .wr 0x100054 0x40140000] := by decide

/-! ### The system commands -/

/-- R260's example. -/
theorem test_nop :
    after .nop { State.reset with stat := { lastErr := 2, sticky := true, errA := 3, errB := 5, cmdCnt := 7 } }
      (fun t => reports 0x100 3 5 t && t.stat.cmdCnt == 8) = true := by decide
/-- R261's example. -/
theorem test_errclr :
    after .errclr { State.reset with stat := { lastErr := 2, sticky := true, errA := 3, errB := 5, cmdCnt := 3 } }
      (fun t => reports 0 3 5 t && t.stat.cmdCnt == 4) = true := by decide
/-- R262's example. -/
theorem test_gmov :
    after .gmov ((State.reset.setGout (grid22 0x4014000000000001 0 0 0)).setGin (grid22 0 9 9 9))
      (fun t => t.gin == grid22 0x4014000000000001 0 0 0) = true := by decide +kernel
/-- R27: the counter wraps. -/
theorem test_cmdcnt_wraps :
    after .nop { State.reset with stat := { StatusRegs.reset with cmdCnt := 0xFFFFFFFF } } (fun t => t.stat.cmdCnt == 0) = true := by
  decide
/-- V-ENC-2, first row. -/
theorem test_illegal_command : stepped (State.reset.withFetchWord 32 2) (reports 0x110 2 0) = true := by decide

/-! ### The Pixel commands -/

/-- R134's examples. -/
theorem test_pxnew :
    after (.pxnew 1 1) (State.reset.setOpnd { State.reset.opnd with c1 := 0x7FC00001, c3 := 5 })
      (fun t => t.px.get 1 == { tag := .lumaChroma, c1 := 0x7FC00001, c2 := 0, c3 := 5 } && t.px.get 0 == Pixel.black) = true := by
  decide
theorem test_pxnew_invalid : after (.pxnew 0 2) State.reset (reports 0x101 2 0) = true := by decide
/-- V-CSC-1: LumaChroma (16, 128, 128). -/
theorem test_pxr : after (.pxr 0) (withPixel .lumaChroma 0x41800000 0x43000000 0x43000000) (fun t => t.res == 0x3A240000) = true := by
  decide +kernel
/-- V-CSC-1: the raw channel of -0. -/
theorem test_pxr_raw : after (.pxr 0) (withPixel .additive 0x80000000 0 0) (fun t => t.res == 0x80000000) = true := by decide +kernel
/-- V-CSC-3, row 5. -/
theorem test_pxg : after (.pxg 0) (withPixel .lumaChroma 0x42FE4A5F 0x42CBAF54 0x4258DA16) (fun t => t.res == 0x4347A67C) = true := by
  decide +kernel
/-- V-CSC-3, row 3. -/
theorem test_pxb : after (.pxb 0) (withPixel .lumaChroma 0x421FE148 0x436FFFF2 0x42DB92A6) (fun t => t.res == 0x437DD718) = true := by
  decide +kernel
/-- V-CSC-3, row 5. -/
theorem test_pxy : after (.pxy 0) (withPixel .additive 0x41400000 0x43480000 0x429A0000) (fun t => t.res == 0x42FE4A5F) = true := by
  decide +kernel
/-- V-CSC-3, row 5. -/
theorem test_pxcb : after (.pxcb 0) (withPixel .additive 0x41400000 0x43480000 0x429A0000) (fun t => t.res == 0x42CBAF54) = true := by
  decide +kernel
/-- V-CSC-6, row 1: -inf. -/
theorem test_pxcb_inf : after (.pxcb 0) (withPixel .additive 0x7F800000 0 0) (fun t => t.res == 0xFF800000) = true := by decide +kernel
/-- V-CSC-3, row 5. -/
theorem test_pxcr : after (.pxcr 0) (withPixel .additive 0x41400000 0x43480000 0x429A0000) (fun t => t.res == 0x4258DA16) = true := by
  decide +kernel

/-! ### The Matrix commands -/

/-- R164's example and V-MAT-2. -/
theorem test_mnew : after .mnew (operands (withCells [(3, rgb 1 2 3)]) 0 0 5 17)
    (fun t => t.mat == { height := 8, width := 24, cells := [] }) = true := by decide +kernel
theorem test_mnew_capacity : after .mnew (operands State.reset 0 0 1025 1017) (reports 0x111 4 0) = true := by decide +kernel
/-- R165's example: the last cell, and the row after it. -/
theorem test_mget : after (.mget 2) (index (withCells [(63, rgb 7 8 9)]) 7 7) (fun t => t.px.get 2 == rgb 7 8 9) = true := by
  decide +kernel
theorem test_mget_outside : after (.mget 0) (index (withCells []) 8 0) (reports 0x102 8 0) = true := by decide +kernel
/-- R166: row-major placing; writing Black removes the cell from the list. -/
theorem test_mset : after (.mset 0) (index ((withCells [(63, rgb 7 8 9)]).setPx 0 (rgb 1 2 3)) 1 2)
    (fun t => t.mat.cells == [(10, rgb 1 2 3), (63, rgb 7 8 9)]) = true := by decide +kernel
theorem test_mset_black : after (.mset 0) (index (withCells [(63, rgb 7 8 9)]) 7 7) (fun t => t.mat.cells == []) = true := by
  decide +kernel
/-- V-MAT-4, overlapping rows. -/
theorem test_mfrr :
    after .mfrr (operands { State.reset with raster := [(0x1000, 1), (0x1001, 2), (0x1002, 3), (0x1003, 4), (0x1004, 5),
        (0x1005, 6), (0x1006, 7), (0x1007, 8), (0x1008, 9)] } 0x1000 3 2 2)
      (fun t => t.mat.cell 0 0 == rgb 0x3F800000 0x40000000 0x40400000 && t.mat.cell 1 0 == rgb 0x40800000 0x40A00000 0x40C00000 &&
        t.mat.cell 1 1 == rgb 0x40E00000 0x41000000 0x41100000 && t.mat.cells.length == 4) = true := by decide +kernel
/-- V-MAT-8 (b): the first byte past the address space. -/
theorem test_mfrr_fault : after .mfrr (operands State.reset 0xFFFFFFF0 12 3 2) (reports 0x112 0 2) = true := by decide +kernel
/-- R168's example. -/
theorem test_mtor : after .mtor (operands (withCells [(0, rgb 0xC0A00000 0x43960000 0x42FFCCCD)]) 0x2000 0 1 1)
    (fun t => t.raster == [(0x2001, 0xFF), (0x2002, 0x7F)]) = true := by decide +kernel
/-- V-MAT-8 (c): no byte is written. -/
theorem test_mtor_fault : after .mtor (operands (admitting 0x1000 0x2000 (withCells [(0, rgb 0x43960000 0x43960000 0)])) 0x1FFE 0 1 1)
    (fun t => reports 0x112 0x2000 1 t && t.raster == []) = true := by decide +kernel

/-! ### The transform commands -/

/-- R220's example, with more partitions than first indices. -/
theorem test_dcta : after (.dcta .s) ((with22 3 0x3F800000 0x40000000 0x40400000 0x40800000).setGout (Grid.zero.put 7 7 1))
    (fun t => t.gout == grid22 0x409FFFFF 0xBF800000 0xBFFFFFFF 0) = true := by decide +kernel
/-- V-DCT-7, row 4: an overflow to an infinity. -/
theorem test_dcta_overflow : after (.dcta .s) (with22 1 0x7F61B1E6 0xFF61B1E6 0x7F61B1E6 0xFF61B1E6)
    (fun t => t.gout == grid22 0 0x7F800000 0 0) = true := by decide +kernel
/-- R221's example. -/
theorem test_idcta : after (.idcta .d) (with22 1 0x4014000000000001 0xBFF0000000000000 0xC000000000000001 0)
    (fun t => t.gout == grid22 0x3FF0000000000003 0x4000000000000002 0x4008000000000002 0x4010000000000001) = true := by
  decide +kernel
/-- R222's example. -/
theorem test_dctb : after (.dctb .d) (with22 0 0x3FF0000000000000 0x4000000000000000 0x4008000000000000 0x4010000000000000)
    (fun t => t.gout == grid22 0x4014000000000001 0xBFF0000000000000 0xC000000000000001 0) = true := by decide +kernel
/-- V-DCT-6: 1 × 1. -/
theorem test_dctb_1x1 : after (.dctb .s) ((extents State.reset 1 1 0).setGin (grid22 0x40A00000 0 0 0))
    (fun t => t.gout == grid22 0x409FFFFF 0 0 0) = true := by decide +kernel
/-- V-DCT-3. -/
theorem test_idctb : after (.idctb .s) (with22 0 0x409FFFFF 0xBF800000 0xBFFFFFFF 0)
    (fun t => t.gout == grid22 0x3F7FFFFA 0x3FFFFFFD 0x403FFFFE 0x407FFFFE) = true := by decide +kernel
/-- V-DCT-8. -/
theorem test_transform_errors :
    after (.dcta .s) (extents State.reset 9 0 0) (reports 0x111 1 9) ∧ after (.dcta .s) (extents State.reset 8 0 0) (reports 0x111 2 0) ∧
    after (.dcta .s) (extents State.reset 8 8 0) (reports 0x111 3 0) ∧
    after (.idctb .d) (extents State.reset 0xFFFFFFFF 8 0) (reports 0x111 1 0xFFFFFFFF) := by decide +kernel

/-- V-DCT-9: the partitions of (7, 4) and (3, 8). -/
theorem test_partitions :
    (List.range 4).map (partIndices 7 4) = [[0], [1], [2], [3, 4, 5, 6]] ∧ partIndices 3 8 7 = [0, 1, 2] ∧ partIndices 3 8 6 = [] := by
  decide

/-! ### Reset -/

/-- R310: an `MTOR` abandoned after two bytes. -/
theorem test_reset_in_mtor :
    stepped { operands (withCells [(0, rgb 0x40A00000 0x40C00000 0x40E00000)]) 0x2000 0 1 1 with host := [.resetDuring 0x24 2] }
      (fun t => t.raster == [(0x2000, 5), (0x2001, 6)] && t.mat == PixelMatrix.reset && t.stat.cmdCnt == 0) = true := by
  decide +kernel

/-! ### Witnesses: for every statement with hypotheses, states and operands that meet them -/

/-- A state with an 8 × 8 Matrix, a raster byte, a 2 × 2 raster and grid in its operands, after a command that raised. -/
def busy : State :=
  { State.reset with
    opnd := { State.reset.opnd with
      row := 7, col := 7, argh := 2, argw := 2, rbase := 0x2000, rstride := 8, gw := 2, gh := 2, npart := 3, c1 := 5 },
    stat := { lastErr := 0x02, sticky := true, errA := 8, errB := 0, cmdCnt := 4 },
    mat := { height := 8, width := 8, cells := [(0, rgb 0x3F800000 0 0), (63, rgb 0 0x40000000 0)] },
    raster := [(0x2001, 3), (0xFFFFFFFF, 9)] }

theorem busy_inv : busy.Inv :=
  { platform := by decide
    raster := by decide
    heightPadded := by decide
    widthPadded := by decide
    capacity := by decide
    cells := by decide
    codes := by decide
    sticky := by decide }

/-- The invariant says nothing about the operand registers or the events to come. -/
theorem inv_of_operands {s : State} (h : s.Inv) (o : OperandRegs) (l : List HostEvent) :
    State.Inv { s with opnd := o, host := l } :=
  ⟨h.1, h.2, h.3, h.4, h.5, h.6, h.7, h.8⟩

/-- `busy` with these events to come. -/
def busyWith (l : List HostEvent) : State := { busy with host := l }

theorem busyWith_inv (l : List HostEvent) : (busyWith l).Inv := inv_of_operands busy_inv busy.opnd l

/-- A command or a step that gives a state with a property gives a state. -/
theorem exists_of_stepped {s : State} {f : State → Bool} (h : stepped s f = true) : ∃ t, step s = .next t ∧ f t = true := by
  unfold stepped at h
  split at h
  · exact ⟨_, by assumption, h⟩
  · cases h
  · cases h

theorem exists_of_after {i : Instr} {s : State} {f : State → Bool} (h : after i s f = true) :
    ∃ t, exec i s = .next t ∧ f t = true := by
  unfold after at h
  split at h
  · exact ⟨_, by assumption, h⟩
  · cases h
  · cases h

theorem witness_DecodeOfEncodeIsTheCommand : (Instr.pxnew 3 255).WellFormed = true ∧ (Instr.idctb .d).WellFormed = true := by decide

theorem witness_EncodeOfDecodeIsTheWord : ∃ i, decode 0x00FF0310 = .ok i := ⟨_, test_decode_pxnew_last⟩

theorem witness_DecoderAcceptsExactlyTheOpcodeTable :
    ∃ r ∈ opcodeRows, ∃ r' ∈ opcodeRows, (0x00FF0310 : Word) &&& r.1 = r.2 ∧ (0x00FF0310 : Word) &&& r'.1 = r'.2 := by decide

/-- An unknown opcode, and a reserved bit at each end of its field. -/
theorem witness_IllegalWordRaisesIllegalCommand :
    [0x00000002, 0x00000100, 0x80000000, 0x01000010, 0x00000410, 0x00000230].Forall fun w : Word =>
      (busyWith [.wr 0x000004 w]).host = [.wr 0x000004 w] ∧ ∀ r ∈ opcodeRows, w &&& r.1 ≠ r.2 := by
  simp only [List.Forall]
  and_intros <;> first | rfl | simp [opcodeRows]

theorem witness_StepRunsTheDecodedCommand :
    (busyWith [.wr 0x000004 0x00000024]).host = [.wr 0x000004 0x00000024] ∧ decode 0x00000024 = .ok .mtor := by
  exact ⟨rfl, by decide⟩

theorem witness_IdleWithoutEvents : busy.host = [] := rfl

theorem witness_ReadsHaveNoSideEffect :
    (busyWith [.rd 0x000008]).host = [.rd 0x000008] ∧ (0x000008 : Offset).toNat % 4 = 0 := by exact ⟨rfl, by decide⟩

/-- The first and the last operand register, the first and the last word of the `GIN` window. -/
theorem witness_WritesReadBackAndChangeNothingElse :
    [0x000018, 0x000044, 0x100000, 0x1001FC].Forall fun off : Offset =>
      (busyWith [.wr off 1]).host = [.wr off 1] ∧ off.toNat % 4 = 0 ∧ writable off := by
  simp only [List.Forall, writable]
  and_intros <;> first | rfl | decide

/-- Unlisted offsets next to the registers and the windows; read-only offsets; a misaligned and a narrow access. -/
theorem witness_UndefinedSpaceReadsZeroAndIgnoresWrites :
    ([0x00005C, 0x0FFFFC, 0x100200, 0x1FFFFC, 0x200200, 0xFFFFFC].Forall fun off : Offset =>
      (busyWith [.rd off]).host = [.rd off] ∧ off.toNat % 4 = 0 ∧ ¬listed off) ∧
    ([0x000000, 0x000014, 0x000048, 0x00005C, 0x100200, 0x200000].Forall fun off : Offset =>
      (busyWith [.wr off 1]).host = [.wr off 1] ∧ off.toNat % 4 = 0 ∧ ¬writable off ∧ off ≠ 0x000004) ∧
    (busyWith [.wr 0x000005 1]).host = [.wr 0x000005 1] ∧ (0x000005 : Offset).toNat % 4 ≠ 0 ∧
    (busyWith [.rd 0x000003]).host = [.rd 0x000003] ∧ (0x000003 : Offset).toNat % 4 ≠ 0 ∧
    (busyWith [.narrow 0x000004 2]).host = [.narrow 0x000004 2] := by
  simp only [List.Forall, listed, writable]
  and_intros <;> first | rfl | decide

/-- The ends of the legal ranges. -/
theorem witness_ConstantRegistersRead :
    Platform.legal { pmax := 1, matcap := 0, admitted := [] } ∧ Platform.legal { pmax := 255, matcap := 2 ^ 30, admitted := [] } := by
  decide

theorem witness_AdmissibleHostIsNeverRefused :
    (busyWith [.wr 0x000004 0xFFFFFFFF, .rd 0x5C, .reset, .resetDuring 0x24 1, .poke 0 1]).safe := by
  unfold State.safe busyWith
  decide

theorem witness_ResetLeavesTheListedValues : (busyWith [.reset]).host = [.reset] ∧ busy.plat.legal := ⟨rfl, by decide⟩

theorem busy_mayAccess (dir : Dir) : ∀ a ∈ region busy, mayAccess busy dir a := by
  simp only [mayAccess]
  cases dir <;> decide +kernel

/-- `busy` with a reset in the middle of an `MTOR`, after `n` bytes. -/
def interrupted (n : Nat) : State := busyWith [.resetDuring 0x24 n]

/-- An `MTOR` that had written some bytes or all of them, one whose region does not fit, one with a refused address, and another
command; and, after 5 of 12 bytes, a byte that none of the five coincides with later. -/
theorem witness_ResetInMidCommandKeepsAPrefix :
    (interrupted 5).host = [.resetDuring 0x24 5] ∧
    (decode 0x24 = .ok .mtor ∧ regionFits (interrupted 5) ∧ (∀ a ∈ region (interrupted 5), mayAccess (interrupted 5) .wr a)) ∧
    ((interrupted 5).Inv ∧ (points (interrupted 5)).take 5 = [(0, 0, 0)] ++ (0, 0, 1) :: [(0, 0, 2), (0, 1, 0), (0, 1, 1)] ∧
      ∀ p ∈ [(0, 0, 2), (0, 1, 0), (0, 1, 1)], addr (interrupted 5) p.1 p.2.1 p.2.2 ≠ addr (interrupted 5) 0 0 1) ∧
    (region (interrupted 12)).length ≤ 12 ∧
    ¬regionFits (operands (interrupted 5) 0 0 9 1) ∧
    (∃ a ∈ region (admitting 0x2000 0x2003 (interrupted 5)), ¬mayAccess (admitting 0x2000 0x2003 (interrupted 5)) .wr a) ∧
    decode 0x30 ≠ .ok .mtor := by
  refine ⟨rfl, ⟨by decide, .inr (.inr (by decide)), busy_mayAccess .wr⟩, ⟨busyWith_inv _, by decide +kernel, by decide⟩,
    by decide +kernel, ?_, ⟨0x2003, by decide +kernel, ?_⟩, by decide⟩
  · unfold regionFits
    decide
  · simp only [mayAccess]
    decide

/-- A step that changes the raster, from a state that meets the invariant. -/
theorem witness_StepKeepsTheInvariant :
    (busyWith [.wr 0x000004 0x24]).Inv ∧ ∃ t, step (busyWith [.wr 0x000004 0x24]) = .next t ∧ t.raster ≠ busy.raster := by
  refine ⟨busyWith_inv _, ?_⟩
  have h : stepped (busyWith [.wr 0x000004 0x24]) (fun t => decide (t.raster ≠ busy.raster)) = true := by decide +kernel
  obtain ⟨t, ht, hd⟩ := exists_of_stepped h
  exact ⟨t, ht, by simpa using hd⟩

theorem witness_ParametersNeverChange : ∃ t, step (busyWith [.reset]) = .next t := ⟨_, rfl⟩

/-- A completing command, a raising one, a reset, a reset in mid-command, a read. -/
theorem witness_CommandCounterCountsCommandWords :
    [.wr 0x000004 0x00, .wr 0x000004 0x02, .reset, .resetDuring 0x24 1, .rd 0].Forall fun e : HostEvent =>
      ∃ t, step (busyWith [e]) = .next t := by
  simp only [List.Forall]
  exact ⟨⟨_, rfl⟩, ⟨_, rfl⟩, ⟨_, rfl⟩, ⟨_, rfl⟩, ⟨_, rfl⟩⟩

theorem witness_StickyIsClearedOnlyByErrclrAndReset :
    ∃ t, step (busyWith [.wr 0x000004 0x00000001]) = .next t ∧ busy.stat.sticky = true ∧ t.stat.sticky = false := by
  have h : stepped (busyWith [.wr 0x000004 0x00000001]) (fun t => !t.stat.sticky) = true := by decide
  obtain ⟨t, ht, hs⟩ := exists_of_stepped h
  exact ⟨t, ht, rfl, by simpa using hs⟩

/-- A word that raises and a word that completes. -/
theorem witness_RaisingCommandWritesOnlyTheErrorReport :
    (∃ t, step (busyWith [.wr 0x000004 0x00020010]) = .next t ∧ t.stat.lastErr ≠ 0) ∧
    ∃ t, step (busyWith [.wr 0x000004 0x00000020]) = .next t ∧ t.stat.lastErr = 0 := by
  have h1 : stepped (busyWith [.wr 0x000004 0x00020010]) (fun t => t.stat.lastErr != 0) = true := by decide
  have h2 : stepped (busyWith [.wr 0x000004 0x00000020]) (fun t => t.stat.lastErr == 0) = true := by decide
  obtain ⟨t, ht, hs⟩ := exists_of_stepped h1
  obtain ⟨u, hu, hv⟩ := exists_of_stepped h2
  exact ⟨⟨t, ht, by simpa using hs⟩, u, hu, by simpa using hv⟩

/-- Every listed error happens: here the two errors of `MFRR`, and an accessor that completes. -/
theorem witness_ErrorsByCommand :
    (∃ t, exec .mfrr (operands busy 0 0 1025 1017) = .next t ∧ (t.stat.lastErr == 0x11) = true) ∧
    (∃ t, exec .mfrr (operands busy 0xFFFFFFFF 0 1 1) = .next t ∧ (t.stat.lastErr == 0x12) = true) ∧
    ∃ t, exec (.pxy 0) busy = .next t ∧ (t.stat.lastErr == 0) = true :=
  ⟨exists_of_after (by decide +kernel), exists_of_after (by decide +kernel), exists_of_after (by decide +kernel)⟩

/-- Each store is written by some command. -/
theorem witness_EachStoreHasItsWriters :
    (∃ t, exec (.mget 1) busy = .next t ∧ decide (t.px ≠ busy.px) = true) ∧
    (∃ t, exec (.pxy 0) busy = .next t ∧ decide (t.res ≠ busy.res) = true) ∧
    (∃ t, exec (.mset 0) busy = .next t ∧ decide (t.mat ≠ busy.mat) = true) ∧
    (∃ t, exec .gmov (busy.setGout (grid22 1 2 3 4)) = .next t ∧ decide (t.gin ≠ busy.gin) = true) ∧
    (∃ t, exec (.dcta .s) (busy.setGin (grid22 0x3F800000 0 0 0)) = .next t ∧ decide (t.gout ≠ busy.gout) = true) ∧
    ∃ t, exec .mtor busy = .next t ∧ decide (t.raster ≠ busy.raster) = true :=
  ⟨exists_of_after (by decide +kernel), exists_of_after (by decide +kernel), exists_of_after (by decide +kernel),
    exists_of_after (by decide +kernel), exists_of_after (by decide +kernel), exists_of_after (by decide +kernel)⟩

/-- The ends of both ranges of `fmt`. -/
theorem witness_PxnewConstructsAPixel : (0 ≤ 1 ∧ 1 ≤ 1) ∧ (2 ≤ 2 ∧ 2 < 256) ∧ (2 ≤ 255 ∧ 255 < 256) := by decide

theorem witness_RawChannelsAreReturnedBitForBit :
    ((withPixel .additive 0x80000000 0x7FC00001 1).px.get 0).tag = .additive ∧
    ((withPixel .lumaChroma 0x80000000 0x7FC00001 1).px.get 0).tag = .lumaChroma := by decide

theorem witness_DerivedChannelsFollowTheFormulas :
    ((withPixel .additive 0x41400000 0x43480000 0x429A0000).px.get 0).tag = .additive ∧
    ((withPixel .lumaChroma 0x41800000 0x43000000 0x43000000).px.get 0).tag = .lumaChroma := by decide

/-- No cells, exactly `MATCAP` cells, the largest height with no cells; one row of blocks more, a height past 32 bits. -/
theorem witness_MnewBuildsABlackMatrix :
    (fits (operands busy 0 0 0 0) ∧ fits (operands busy 0 0 1024 1024) ∧ fits (operands busy 0 0 0xFFFFFFF8 0)) ∧
    ¬fits (operands busy 0 0 1025 1017) ∧ ¬fits (operands busy 0 0 0xFFFFFFF9 0) := by
  unfold fits padded
  decide

/-- The last cell; the first row and the first column past the Matrix. -/
theorem witness_MgetCopiesACell :
    (busy.opnd.row.toNat < busy.mat.height.toNat ∧ busy.opnd.col.toNat < busy.mat.width.toNat) ∧
    (index busy 8 0).mat.height.toNat ≤ (index busy 8 0).opnd.row.toNat ∧
    (index busy 0 8).mat.width.toNat ≤ (index busy 0 8).opnd.col.toNat := by decide

theorem witness_MsetReplacesOneCell :
    (busy.Inv ∧ busy.opnd.row.toNat < busy.mat.height.toNat ∧ busy.opnd.col.toNat < busy.mat.width.toNat) ∧
    ((index busy 8 0).Inv ∧ (index busy 8 0).mat.height.toNat ≤ (index busy 8 0).opnd.row.toNat) ∧
    (index busy 0 8).Inv ∧ (index busy 0 8).mat.width.toNat ≤ (index busy 0 8).opnd.col.toNat :=
  ⟨⟨busy_inv, by decide, by decide⟩, ⟨inv_of_operands busy_inv _ _, by decide⟩, inv_of_operands busy_inv _ _, by decide⟩

theorem witness_NegativeIndexAlwaysRaises :
    ((index busy 0x80000000 0).Inv ∧ 2 ^ 31 ≤ (index busy 0x80000000 0).opnd.row.toNat) ∧
    (index busy 0 0xFFFFFFFF).Inv ∧ 2 ^ 31 ≤ (index busy 0 0xFFFFFFFF).opnd.col.toNat :=
  ⟨⟨inv_of_operands busy_inv _ _, by decide⟩, inv_of_operands busy_inv _ _, by decide⟩

theorem busy_fits : fits busy := by
  unfold fits padded
  decide

theorem witness_MfrrBuildsTheMatrixFromTheRaster :
    (fits busy ∧ ∀ a ∈ region busy, mayAccess busy .rd a) ∧
    fits (operands busy 0 0 0 5) ∧ ∀ a ∈ region (operands busy 0 0 0 5), mayAccess (operands busy 0 0 0 5) .rd a := by
  refine ⟨⟨busy_fits, busy_mayAccess .rd⟩, by unfold fits padded; decide, ?_⟩
  simp only [mayAccess]
  decide +kernel

/-- V-MAT-8 (a): the footprint fails at its eleventh byte; V-MAT-8 (b): at an address past the space. -/
theorem witness_MfrrErrors :
    ¬fits (operands busy 0 0 1025 1017) ∧
    (fits (operands (admitting 0 0x1010 busy) 0x1000 12 3 2) ∧
      firstFailing (operands (admitting 0 0x1010 busy) 0x1000 12 3 2) .rd 0x1010) ∧
    fits (operands busy 0xFFFFFFFE 0 1 1) ∧ firstFailing (operands busy 0xFFFFFFFE 0 1 1) .rd 0x100000000 := by
  refine ⟨by unfold fits padded; decide, ⟨by unfold fits padded; decide, ?_⟩, by unfold fits padded; decide, ?_⟩
  · refine ⟨[0x1000, 0x1001, 0x1002, 0x1003, 0x1004, 0x1005, 0x100C, 0x100D, 0x100E, 0x100F],
      [0x1011, 0x1018, 0x1019, 0x101A, 0x101B, 0x101C, 0x101D], by decide +kernel, ?_, ?_⟩ <;>
    · simp only [mayAccess]
      decide +kernel
  · refine ⟨[0xFFFFFFFE, 0xFFFFFFFF], [], by decide +kernel, ?_, ?_⟩ <;>
    · simp only [mayAccess]
      decide +kernel

theorem busy_regionFits : regionFits busy := .inr (.inr (by decide))

/-- A region of the Matrix's corner; a byte of it that no later access of the region coincides with. -/
theorem witness_MtorExportsTheRegion :
    busy.Inv ∧ regionFits busy ∧ (∀ a ∈ region busy, mayAccess busy .wr a) ∧
    ∀ r' c' b', r' < busy.opnd.argh.toNat → c' < busy.opnd.argw.toNat → b' < 3 → before 0 1 2 r' c' b' →
      addr busy r' c' b' ≠ addr busy 0 1 2 := by
  refine ⟨busy_inv, busy_regionFits, busy_mayAccess .wr, ?_⟩
  have h : ∀ r' < 2, ∀ c' < 2, ∀ b' < 3, (0 < r' ∨ (0 = r' ∧ (1 < c' ∨ (1 = c' ∧ 2 < b')))) →
      0x2000 + r' * 8 + 3 * c' + b' ≠ 0x2000 + 0 * 8 + 3 * 1 + 2 := by
    intro r' _ c' _ b' _
    omega
  intro r' c' b' hr hc hb hbef
  exact h r' hr c' hc b' hb hbef

/-- A region too wide, one too high, and a footprint that fails at its third byte. -/
theorem witness_MtorErrors :
    (0 < (operands busy 0 0 9 9).opnd.argh.toNat ∧ (operands busy 0 0 9 9).mat.width.toNat < (operands busy 0 0 9 9).opnd.argw.toNat) ∧
    (0 < (operands busy 0 0 9 8).opnd.argw.toNat ∧ (operands busy 0 0 9 8).opnd.argw.toNat ≤ (operands busy 0 0 9 8).mat.width.toNat ∧
      (operands busy 0 0 9 8).mat.height.toNat < (operands busy 0 0 9 8).opnd.argh.toNat) ∧
    regionFits (operands (admitting 0x1000 0x2000 busy) 0x1FFE 0 1 1) ∧
    firstFailing (operands (admitting 0x1000 0x2000 busy) 0x1FFE 0 1 1) .wr 0x2000 := by
  refine ⟨by decide, by decide, .inr (.inr (by decide)), [0x1FFE, 0x1FFF], [], by decide +kernel, ?_, ?_⟩ <;>
  · simp only [mayAccess]
    decide +kernel

theorem witness_RasterRoundTrip :
    busy.Inv ∧ fits busy ∧ ∀ a ∈ region busy, mayAccess busy .rd a ∧ mayAccess busy .wr a :=
  ⟨busy_inv, busy_fits, fun a ha => ⟨busy_mayAccess .rd a ha, busy_mayAccess .wr a ha⟩⟩

/-- Each check's failing values at the ends of its range, the earlier checks passed; and legal parameters. -/
theorem witness_TransformParameterErrors :
    ((extents busy 0 0 0).opnd.gw.toNat = 0 ∧ 8 < (extents busy 9 0 0).opnd.gw.toNat) ∧
    ((1 ≤ (extents busy 1 0 0).opnd.gw.toNat ∧ (extents busy 1 0 0).opnd.gw.toNat ≤ 8 ∧ (extents busy 1 0 0).opnd.gh.toNat = 0) ∧
      1 ≤ (extents busy 8 9 0).opnd.gw.toNat ∧ (extents busy 8 9 0).opnd.gw.toNat ≤ 8 ∧ 8 < (extents busy 8 9 0).opnd.gh.toNat) ∧
    (legalExtents (extents busy 8 8 0).opnd ∧ (extents busy 8 8 0).opnd.npart.toNat = 0) ∧
    legalExtents (extents busy 8 8 0xFFFFFFFF).opnd ∧ 1 ≤ (extents busy 8 8 0xFFFFFFFF).opnd.npart.toNat := by
  unfold legalExtents
  decide

/-- The smallest and the largest grid. -/
theorem legalExtents_ends : (legalExtents (extents busy 1 1 1).opnd ∧ 1 ≤ (extents busy 1 1 1).opnd.npart.toNat) ∧
    legalExtents (extents busy 8 8 1000).opnd ∧ 1 ≤ (extents busy 8 8 1000).opnd.npart.toNat := by
  unfold legalExtents
  decide

theorem witness_DctaComputesTheForwardTransform :
    legalExtents (extents busy 8 8 1000).opnd ∧ 1 ≤ (extents busy 8 8 1000).opnd.npart.toNat := legalExtents_ends.2

theorem witness_IdctaComputesTheInverseTransform :
    legalExtents (extents busy 1 1 1).opnd ∧ 1 ≤ (extents busy 1 1 1).opnd.npart.toNat := legalExtents_ends.1

theorem witness_DctbComputesTheForwardTransform : legalExtents (extents busy 8 8 1000).opnd := legalExtents_ends.2.1

theorem witness_IdctbComputesTheInverseTransform : legalExtents (extents busy 1 1 1).opnd := legalExtents_ends.1.1

/-- More partitions than first indices, as many, one; and cells in the first and the last partition. -/
theorem witness_PartitionsTileTheGrid : (1 ≤ 8 ∧ (0, 0) ∈ laneOrder 3 2 8) ∧ (1 ≤ 8 ∧ (7, 1) ∈ laneOrder 8 2 8) ∧ (0 + 1 < 2 ∧ 4 < 5) := by
  decide

/-- The grid's cells in descending order. -/
theorem witness_ScheduleDoesNotMatter :
    legalExtents busy.opnd ∧ 1 ≤ 3 ∧
    ∀ a b, (a, b) ∈ [(1, 1), (1, 0), (0, 1), (0, 0)] ↔ a < busy.opnd.gw.toNat ∧ b < busy.opnd.gh.toNat := by
  refine ⟨by unfold legalExtents; decide, by decide, fun a b => ?_⟩
  show _ ↔ a < 2 ∧ b < 2
  simp
  omega

theorem witness_PartitionCountDoesNotChangeTheResult :
    legalExtents busy.opnd ∧ 1 ≤ (1 : Word).toNat ∧ 1 ≤ (0xFFFFFFFF : Word).toNat := by
  unfold legalExtents
  decide

theorem witness_NaNInputMakesEveryCellNaN :
    legalExtents busy.opnd ∧ 1 ≤ busy.opnd.npart.toNat ∧
    ∃ a b, a < busy.opnd.gw.toNat ∧ b < busy.opnd.gh.toNat ∧ input (busy.setGin (grid22 0 0 0 0x7FC00000)) .s a b = .nan :=
  ⟨by unfold legalExtents; decide, by decide, 1, 1, by decide, by decide, by decide +kernel⟩

theorem witness_ZeroGridTransformsToZero :
    legalExtents busy.opnd ∧ 1 ≤ busy.opnd.npart.toNat ∧
    ∀ a < busy.opnd.gw.toNat, ∀ b < busy.opnd.gh.toNat, input busy .d a b = .fin false 0 :=
  ⟨by unfold legalExtents; decide, by decide, by decide +kernel⟩

theorem witness_OneByOneFormulationAIsTheIdentity :
    (extents busy 1 1 3).opnd.gw.toNat = 1 ∧ (extents busy 1 1 3).opnd.gh.toNat = 1 ∧ 1 ≤ (extents busy 1 1 3).opnd.npart.toNat := by
  decide

/-- A tie: `2^24 + 1` units lies midway between two numbers of format `S`. -/
theorem witness_RoundingIsToNearestTiesToEven :
    (0 < 1 ∧ 2 ^ 23 + 1 < 2 ^ (Prec.s.fracBits + 1)) ∧ rnMag .s (2 ^ 24 + 1) 1 * 1 ≠ (2 ^ 23 + 1) * 2 ^ 1 ∧
    |((rnMag .s (2 ^ 24 + 1) 1 * 1 : Nat) : ℤ) - (2 ^ 24 + 1 : Nat)| = |(((2 ^ 23 + 1) * 2 ^ 1 * 1 : Nat) : ℤ) - (2 ^ 24 + 1 : Nat)| := by
  decide

/-- A tie of a product: half of the smallest subnormal of format `S` lies midway between 0 and 1 units, and 0 is even. -/
theorem test_product_tie : fmul .s (.fin false 1) (.fin true (2 ^ 148)) = .fin true 0 ∧
    fmul .s (.fin false 3) (.fin false (2 ^ 148)) = .fin false 2 := by decide +kernel

/-- The largest finite number of format `S`, the smallest subnormal, and zero. -/
theorem holds_ends : Prec.s.holds ((2 ^ 24 - 1) * 2 ^ 253) ∧ Prec.s.holds 1 ∧ Prec.s.holds 0 :=
  ⟨⟨by decide +kernel, 2 ^ 24 - 1, 253, by decide, rfl⟩, ⟨by decide +kernel, 1, 0, by decide, rfl⟩,
    by decide +kernel, 0, 0, by decide, rfl⟩

theorem witness_OperationsRoundTheExactResultOnce :
    Prec.s.holds ((2 ^ 24 - 1) * 2 ^ 253) ∧ Prec.s.holds 1 ∧ 1 ≠ 0 := ⟨holds_ends.1, holds_ends.2.1, by decide⟩

theorem witness_SpecialValuesFollowTheStandard : Prec.s.holds 1 ∧ 1 ≠ 0 := ⟨holds_ends.2.1, by decide⟩

theorem witness_BitsAndValAreInverse :
    FVal.ofFormat .s (.fin true ((2 ^ 24 - 1) * 2 ^ 253)) ∧ 0x80000001 < 2 ^ Prec.s.width ∧ val .s 0x80000001 ≠ .nan :=
  ⟨holds_ends.1, by decide, by decide +kernel⟩

theorem witness_NormalisationConstantsAreCorrectlyRounded : (1 ≤ 1 ∧ 1 ≤ 8) ∧ 1 ≤ 8 ∧ 8 ≤ 8 := by decide

theorem witness_CosRomIsCorrectlyRounded : (1 ≤ 1 ∧ 1 ≤ 8 ∧ 0 < 1) ∧ 1 ≤ 8 ∧ 8 ≤ 8 ∧ 7 < 8 := by decide

/-- R24: `STATUS` with both fields set, as P5 lists it, and neighbouring registers that hold different values. -/
theorem test_register_map :
    (busy.busRead 0x08, busy.busRead 0x0C, busy.busRead 0x14, busy.busRead 0x30, busy.busRead 0x34, busy.busRead 0x50) =
      (0x102, 8, 4, 7, 0x2000, 8) := by decide

/-- R41: container `(1, 2)` of `GOUT` stands at `0x200000 + 64 + 16`. -/
theorem test_gout_window :
    ((busy.setGout (Grid.zero.put 1 2 0xDEADBEEF12345678)).busRead 0x200050,
      (busy.setGout (Grid.zero.put 1 2 0xDEADBEEF12345678)).busRead 0x200054) = (0x12345678, 0xDEADBEEF) := by decide +kernel

/-- The first and the last container. -/
theorem witness_WindowsShowTheContainers : (0 < 8 ∧ 0 < 8) ∧ 7 < 8 ∧ 7 < 8 := by decide

end Sys2Proof.Tests
end

section
/-! O47: rounding is to nearest, ties to even. The error of `roundDiv` is at most half the divisor, so no multiple of the
divisor is nearer; the numbers of the format below the binade of `n / d` are farther than the lower end of that binade. -/

namespace Sys2Proof

/-! ### The quotient -/

/-- The quotient rounded to nearest is off by at most half the divisor, and by exactly half only when it is even. -/
theorem roundDiv_error (n : Nat) {d : Nat} (hd : 0 < d) :
    2 * |(roundDiv n d : ℤ) * d - n| ≤ d ∧ (2 * |(roundDiv n d : ℤ) * d - n| = d → roundDiv n d % 2 = 0) := by
  have hn : (d : ℤ) * (n / d : Nat) + (n % d : Nat) = n := by exact_mod_cast Nat.div_add_mod n d
  have hlt : n % d < d := Nat.mod_lt n hd
  have hdown : |((n / d : Nat) : ℤ) * d - n| = (n % d : Nat) := by
    rw [← hn, mul_comm, sub_add_cancel_left, abs_neg, Nat.abs_cast]
  have hup : |((n / d + 1 : Nat) : ℤ) * d - n| = d - (n % d : Nat) := by
    rw [← abs_of_nonneg (a := (d : ℤ) - (n % d : Nat)) (by omega), ← hn]
    congr 1
    push_cast
    ring
  unfold roundDiv
  split
  · rw [hdown]
    omega
  · split
    · rw [hup]
      omega
    · rcases Nat.mod_two_eq_zero_or_one (n / d) with h | h <;> rw [h]
      · rw [add_zero, hdown]
        omega
      · rw [hup]
        omega

/-- No integral multiple of the divisor is nearer than the rounded one, and one as near is a tie. -/
theorem roundDiv_nearest (n d : Nat) (hd : 0 < d) (j : ℤ) :
    |(roundDiv n d : ℤ) * d - n| ≤ |j * d - n| ∧
    ((roundDiv n d : ℤ) ≠ j → |(roundDiv n d : ℤ) * d - n| = |j * d - n| → roundDiv n d % 2 = 0) := by
  obtain ⟨herr, htie⟩ := roundDiv_error n hd
  by_cases hj : (roundDiv n d : ℤ) = j
  · simp [hj]
  · have hone : 1 ≤ |j - roundDiv n d| := Int.one_le_abs (sub_ne_zero.mpr (Ne.symm hj))
    have hgap : (d : ℤ) ≤ |j * d - n| + |(roundDiv n d : ℤ) * d - n| :=
      calc (d : ℤ) ≤ |j - roundDiv n d| * d := le_mul_of_one_le_left (by omega) hone
        _ = |(j * d - n) - (roundDiv n d * d - n)| := by
          rw [sub_sub_sub_cancel_right, ← sub_mul, abs_mul, Nat.abs_cast]
        _ ≤ _ := abs_sub _ _
    exact ⟨by omega, fun _ heq => htie (by omega)⟩

/-! ### The binade of the rounded number -/

/-- The last fraction bit of `q * 2 ^ e` is that of `q`, and the exponent field is `e` past the leading bit of `q`. -/
theorem magBits_mul_two_pow (F : Prec) {q e : Nat} (hq : q < 2 ^ (F.fracBits + 1)) (he : e = 0 ∨ 2 ^ F.fracBits ≤ q) :
    magBits F (q * 2 ^ e) = e * 2 ^ F.fracBits + q := by
  have hlog : (q * 2 ^ e).log2 - F.fracBits = e := by
    rcases he with rfl | hle
    · rcases Nat.eq_zero_or_pos q with rfl | hpos
      · simp
      · have := (Nat.log2_lt hpos.ne').mpr hq
        rw [pow_zero, mul_one]
        omega
    · have hpos : q * 2 ^ e ≠ 0 := (Nat.mul_pos ((Nat.two_pow_pos _).trans_le hle) (Nat.two_pow_pos e)).ne'
      have : (q * 2 ^ e).log2 = F.fracBits + e := (Nat.log2_eq_iff hpos).mpr
        ⟨by rw [pow_add]; exact Nat.mul_le_mul_right _ hle,
          by rw [add_right_comm, pow_add _ (_ + 1)]; exact Nat.mul_lt_mul_of_pos_right hq (Nat.two_pow_pos e)⟩
      omega
  rw [magBits, hlog, Nat.mul_div_cancel _ (Nat.two_pow_pos e)]

theorem two_pow_fracBits_mod_two (F : Prec) : 2 ^ F.fracBits % 2 = 0 := by cases F <;> rfl

theorem magBits_mod_two (F : Prec) {q e : Nat} (hq : q < 2 ^ (F.fracBits + 1)) (he : e = 0 ∨ 2 ^ F.fracBits ≤ q) :
    magBits F (q * 2 ^ e) % 2 = q % 2 := by
  rw [magBits_mul_two_pow F hq he]
  simp [Nat.add_mod, Nat.mul_mod, two_pow_fracBits_mod_two]

/-- Where the spacing is more than one unit, `n / d` has the full precision: its binade begins at `2 ^ fracBits` times the
spacing. -/
theorem binade_le (F : Prec) {n d : Nat} (hs : spacing F n d ≠ 0) : 2 ^ F.fracBits * (d * 2 ^ spacing F n d) ≤ n := by
  have hlog : F.fracBits + spacing F n d = (n / d).log2 := by
    unfold spacing at *
    omega
  have hne : n / d ≠ 0 := by
    intro h
    simp [spacing, h] at hs
  calc 2 ^ F.fracBits * (d * 2 ^ spacing F n d) = 2 ^ (F.fracBits + spacing F n d) * d := by ring
    _ ≤ n / d * d := Nat.mul_le_mul_right _ (hlog ▸ Nat.log2_self_le hne)
    _ ≤ n := Nat.div_mul_le_self n d

/-- In units of the spacing, `n / d` has at most `fracBits + 1` bits. -/
theorem div_spacing_lt (F : Prec) (n d : Nat) : n / (d * 2 ^ spacing F n d) < 2 ^ (F.fracBits + 1) := by
  rw [← Nat.div_div_eq_div_mul, Nat.div_lt_iff_lt_mul (Nat.two_pow_pos _), ← pow_add]
  calc n / d < 2 ^ ((n / d).log2 + 1) := Nat.lt_log2_self
    _ ≤ 2 ^ (F.fracBits + 1 + spacing F n d) := Nat.pow_le_pow_right two_pos (by unfold spacing; omega)

/-- The last fraction bit of a rounded magnitude is even where the rounded quotient is, also when it carries into the next
binade. -/
theorem magBits_rnMag_even (F : Prec) {n d : Nat} (hd : 0 < d) (h : roundDiv n (d * 2 ^ spacing F n d) % 2 = 0) :
    magBits F (rnMag F n d) % 2 = 0 := by
  have hD : 0 < d * 2 ^ spacing F n d := Nat.mul_pos hd (Nat.two_pow_pos _)
  have hq := (roundDiv_le n (d * 2 ^ spacing F n d)).trans (div_spacing_lt F n d)
  unfold rnMag
  rcases hq.lt_or_eq with hlt | heq
  · have hbin : spacing F n d = 0 ∨ 2 ^ F.fracBits ≤ roundDiv n (d * 2 ^ spacing F n d) := by
      refine or_iff_not_imp_left.mpr fun hs => le_trans ?_ (le_roundDiv _ _)
      rw [Nat.le_div_iff_mul_le hD]
      exact binade_le F hs
    rw [magBits_mod_two F hlt hbin, h]
  · rw [heq, pow_succ, mul_assoc, ← pow_succ',
      magBits_mod_two F (Nat.pow_lt_pow_right one_lt_two (Nat.lt_succ_self _)) (.inr le_rfl), two_pow_fracBits_mod_two]

/-! ### The nearest number of the format's precision -/

theorem rnMag_mul (F : Prec) (n d : Nat) :
    rnMag F n d * d = roundDiv n (d * 2 ^ spacing F n d) * (d * 2 ^ spacing F n d) := by
  unfold rnMag
  ring

/-- A number of the precision that is finer than the spacing lies below the binade of `n / d`, and the lower end of the binade is
nearer. -/
theorem rnMag_nearer_of_lt_spacing (F : Prec) {n d : Nat} (hd : 0 < d) {k e : Nat} (hk : k < 2 ^ (F.fracBits + 1))
    (he : e < spacing F n d) : |((rnMag F n d * d : Nat) : ℤ) - n| < |((k * 2 ^ e * d : Nat) : ℤ) - n| := by
  have hlow : 2 ^ F.fracBits * (d * 2 ^ spacing F n d) ≤ n := binade_le F (by omega)
  have hbelow : k * 2 ^ e * d < 2 ^ F.fracBits * (d * 2 ^ spacing F n d) :=
    calc k * 2 ^ e * d < 2 ^ (F.fracBits + 1) * 2 ^ e * d := by gcongr
      _ = 2 ^ F.fracBits * (d * 2 ^ (e + 1)) := by ring
      _ ≤ 2 ^ F.fracBits * (d * 2 ^ spacing F n d) := by gcongr <;> omega
  have hnear := (roundDiv_nearest n _ (Nat.mul_pos hd (Nat.two_pow_pos (spacing F n d))) (2 ^ F.fracBits : Nat)).1
  rw [← Nat.cast_mul, ← Nat.cast_mul, abs_of_nonpos (a := ((2 ^ F.fracBits * _ : Nat) : ℤ) - n) (by omega)] at hnear
  rw [rnMag_mul, abs_of_nonpos (a := ((k * 2 ^ e * d : Nat) : ℤ) - n) (by omega)]
  omega

/-- A multiple of the spacing is no nearer, and where it is as near the rounded number is even. -/
theorem rnMag_nearest_of_spacing_le (F : Prec) {n d : Nat} (hd : 0 < d) (k : Nat) {e : Nat} (he : spacing F n d ≤ e) :
    |((rnMag F n d * d : Nat) : ℤ) - n| ≤ |((k * 2 ^ e * d : Nat) : ℤ) - n| ∧
    (rnMag F n d ≠ k * 2 ^ e → |((rnMag F n d * d : Nat) : ℤ) - n| = |((k * 2 ^ e * d : Nat) : ℤ) - n| →
      magBits F (rnMag F n d) % 2 = 0) := by
  obtain ⟨c, rfl⟩ := Nat.exists_eq_add_of_le he
  obtain ⟨hle, htie⟩ := roundDiv_nearest n _ (Nat.mul_pos hd (Nat.two_pow_pos (spacing F n d))) (k * 2 ^ c : Nat)
  have hmul : k * 2 ^ (spacing F n d + c) = k * 2 ^ c * 2 ^ spacing F n d := by ring
  have hv : k * 2 ^ (spacing F n d + c) * d = k * 2 ^ c * (d * 2 ^ spacing F n d) := by ring
  rw [rnMag_mul, hv, Nat.cast_mul _ (d * _), Nat.cast_mul _ (d * _)]
  refine ⟨hle, fun hne heq => magBits_rnMag_even F hd (htie (fun h => hne ?_) heq)⟩
  rw [hmul, ← Nat.cast_inj.mp h, rnMag]

/-- No number of the format's precision is nearer than the rounded one, and on a tie the rounded one is even. -/
theorem rnMag_nearest (F : Prec) {n d : Nat} (hd : 0 < d) {k : Nat} (e : Nat) (hk : k < 2 ^ (F.fracBits + 1)) :
    |((rnMag F n d * d : Nat) : ℤ) - n| ≤ |((k * 2 ^ e * d : Nat) : ℤ) - n| ∧
    (rnMag F n d ≠ k * 2 ^ e → |((rnMag F n d * d : Nat) : ℤ) - n| = |((k * 2 ^ e * d : Nat) : ℤ) - n| →
      magBits F (rnMag F n d) % 2 = 0) := by
  rcases Nat.lt_or_ge e (spacing F n d) with he | he
  · have hlt := rnMag_nearer_of_lt_spacing F hd hk he
    exact ⟨hlt.le, fun _ heq => absurd heq hlt.ne⟩
  · exact rnMag_nearest_of_spacing_le F hd k he

/-- Settles O47: a multiple of the spacing is no nearer because `roundDiv` rounds the quotient to nearest, and a number below the
binade is farther than the lower end of the binade. -/
theorem roundingIsToNearestTiesToEven : Obligations.RoundingIsToNearestTiesToEven :=
  fun F n d hd => ⟨rnMag_significant F n d, fun _ e hk => rnMag_nearest F hd e hk⟩

end Sys2Proof
end

section
/-! O48: a rounding of a rational number is nearest among the signed numbers of the format, and each operation is one such
rounding of its exact result. -/

namespace Sys2Proof

open Sys2Proof.Claims

/-! ### The rounding of zero -/

theorem rnMag_zero (F : Prec) (d : Nat) : rnMag F 0 d = 0 := by
  simp [rnMag, roundDiv]

@[simp] theorem rn_zero (F : Prec) (s : Bool) (d : Nat) : rn F s 0 d = .fin s 0 := by
  rw [rn, rnMag_zero, if_pos (Nat.two_pow_pos _)]

/-! ### The rounding of a rational number -/

theorem abs_sub_div_eq (r n : Nat) {d : Nat} (hd : 0 < d) :
    |(r : ℚ) - n / d| = ((|((r * d : Nat) : ℤ) - n| : ℤ) : ℚ) / d := by
  have hpos : (0 : ℚ) < d := by exact_mod_cast hd
  rw [eq_div_iff hpos.ne', ← abs_of_pos hpos, ← abs_mul, abs_of_pos hpos, sub_mul, div_mul_cancel₀ _ hpos.ne']
  push_cast
  rfl

/-- `rnMag_nearest` for the rational number `n / d`. -/
theorem rnMag_nearest_rat (F : Prec) (n : Nat) {d : Nat} (hd : 0 < d) {k : Nat} (e : Nat) (hk : k < 2 ^ (F.fracBits + 1)) :
    |(rnMag F n d : ℚ) - n / d| ≤ |((k * 2 ^ e : Nat) : ℚ) - n / d| ∧
    ((rnMag F n d : ℚ) ≠ (k * 2 ^ e : Nat) → |(rnMag F n d : ℚ) - n / d| = |((k * 2 ^ e : Nat) : ℚ) - n / d| →
      magBits F (rnMag F n d) % 2 = 0) := by
  have hpos : (0 : ℚ) < d := by exact_mod_cast hd
  rw [abs_sub_div_eq _ n hd, abs_sub_div_eq _ n hd, div_le_div_iff_of_pos_right hpos, div_left_inj' hpos.ne', Int.cast_le,
    Int.cast_inj, Ne, Nat.cast_inj]
  exact rnMag_nearest F hd e hk

/-- A negative number is no nearer to `n / d` than 0 is, so the rounded magnitude is also nearest among the signed numbers. -/
theorem rnMag_nearest_signed (F : Prec) (n : Nat) {d : Nat} (hd : 0 < d) (neg : Bool) {k : Nat} (e : Nat)
    (hk : k < 2 ^ (F.fracBits + 1)) :
    |(rnMag F n d : ℚ) - n / d| ≤ |(if neg then -1 else 1) * ((k * 2 ^ e : Nat) : ℚ) - n / d| ∧
    ((rnMag F n d : ℚ) ≠ (if neg then -1 else 1) * (k * 2 ^ e : Nat) →
      |(rnMag F n d : ℚ) - n / d| = |(if neg then -1 else 1) * ((k * 2 ^ e : Nat) : ℚ) - n / d| →
      magBits F (rnMag F n d) % 2 = 0) := by
  cases neg with
  | false => simpa using rnMag_nearest_rat F n hd e hk
  | true =>
    obtain ⟨hle, htie⟩ := rnMag_nearest_rat F n hd (k := 0) 0 (Nat.two_pow_pos _)
    have hy : (0 : ℚ) ≤ n / d := by positivity
    have hv : (0 : ℚ) ≤ (k * 2 ^ e : Nat) := Nat.cast_nonneg _
    have hneg : |(if true then -1 else 1) * ((k * 2 ^ e : Nat) : ℚ) - n / d| = (k * 2 ^ e : Nat) + n / d := by
      rw [if_pos rfl, abs_of_nonpos (by linarith)]
      ring
    have hzero : |((0 * 2 ^ 0 : Nat) : ℚ) - n / d| = n / d := by
      rw [zero_mul, Nat.cast_zero, zero_sub, abs_neg, abs_of_nonneg hy]
    rw [hneg]
    rw [hzero] at hle htie
    refine ⟨by linarith, fun hne heq => htie (fun h => hne ?_) (by linarith)⟩
    have hk0 : ((k * 2 ^ e : Nat) : ℚ) = 0 := by linarith
    rw [h, hk0]
    simp

/-- The distance of a signed magnitude to `±y` units, in units. -/
theorem abs_toRat_sub (F : Prec) (neg neg' : Bool) (v : Nat) (y : ℚ) :
    |toRat F neg' v - (if neg then -1 else 1) * y / 2 ^ F.unitExp| =
      |(if neg ^^ neg' then -1 else 1) * (v : ℚ) - y| / 2 ^ F.unitExp := by
  have hfactor : toRat F neg' v - (if neg then -1 else 1) * y / 2 ^ F.unitExp =
      (if neg then -1 else 1) * (((if neg ^^ neg' then -1 else 1) * (v : ℚ) - y) / 2 ^ F.unitExp) := by
    unfold toRat
    cases neg <;> cases neg' <;> simp <;> ring
  have hU : (0 : ℚ) < 2 ^ F.unitExp := by positivity
  rw [hfactor, abs_mul, abs_div, abs_of_pos hU]
  cases neg <;> simp

/-- A magnitude is rounded past the format only at or past the midpoint between the largest finite number and `2 ^ topExp`. -/
theorem le_of_rnMag_ge (F : Prec) (n : Nat) {d : Nat} (hd : 0 < d) (h : 2 ^ F.topExp ≤ rnMag F n d) :
    (2 : ℚ) ^ F.topExp - 2 ^ (F.topExp - F.fracBits - 2) ≤ n / d := by
  obtain ⟨a, ha⟩ : ∃ a, F.topExp = F.fracBits + 1 + (a + 1) :=
    ⟨F.topExp - F.fracBits - 2, by cases F <;> rfl⟩
  have hle := (rnMag_nearest_rat F n hd (a + 1)
    (Nat.sub_lt (Nat.two_pow_pos (F.fracBits + 1)) one_pos)).1
  have hr : (2 : ℚ) ^ F.topExp ≤ rnMag F n d := by exact_mod_cast h
  have hv : (((2 ^ (F.fracBits + 1) - 1) * 2 ^ (a + 1) : Nat) : ℚ) = 2 ^ F.topExp - 2 * 2 ^ a := by
    rw [ha, Nat.cast_mul, Nat.cast_sub Nat.one_le_two_pow]
    push_cast
    ring
  have hpow : (0 : ℚ) < 2 ^ a := by positivity
  rw [hv] at hle
  rw [show F.topExp - F.fracBits - 2 = a by omega]
  rcases abs_cases ((2 : ℚ) ^ F.topExp - 2 * 2 ^ a - n / d) with ⟨habs, _⟩ | ⟨habs, _⟩ <;>
  · rw [habs] at hle
    linarith [le_abs_self ((rnMag F n d : ℚ) - n / d)]

/-- `RN_F` rounds the rational number `±(n / d)` units (R12). -/
theorem rn_isRounded (F : Prec) (neg : Bool) (n : Nat) {d : Nat} (hd : 0 < d) :
    isRounded F ((if neg then -1 else 1) * (n / d : ℚ) / 2 ^ F.unitExp) (rn F neg n d) := by
  have hU : (0 : ℚ) < 2 ^ F.unitExp := by positivity
  rcases Nat.lt_or_ge (rnMag F n d) (2 ^ F.topExp) with hlt | hge
  · rw [rn, if_pos hlt]
    refine ⟨⟨hlt, rnMag_significant F n d⟩, fun neg' k e hk => ?_⟩
    obtain ⟨hle, htie⟩ := rnMag_nearest_signed F n hd (neg ^^ neg') e hk
    rw [abs_toRat_sub, abs_toRat_sub, Bool.xor_self, if_neg Bool.false_ne_true, one_mul, div_le_div_iff_of_pos_right hU,
      div_left_inj' hU.ne']
    refine ⟨hle, fun hne => htie fun heq => hne ?_⟩
    rw [toRat, toRat, heq]
    cases neg <;> cases neg' <;> simp
  · rw [rn, if_neg hge.not_gt]
    refine (div_le_div_of_nonneg_right (le_of_rnMag_ge F n hd hge) hU.le).trans_eq ?_
    cases neg <;> simp [neg_div]

/-! ### The operations -/

/-- `RN_F` of a number given as a sign and a quotient of units. -/
theorem rn_isRounded_of_eq (F : Prec) (neg : Bool) (n : Nat) {d : Nat} (hd : 0 < d) {x : ℚ}
    (hx : x = (if neg then -1 else 1) * (n / d : ℚ) / 2 ^ F.unitExp) : isRounded F x (rn F neg n d) :=
  hx ▸ rn_isRounded F neg n hd

theorem zero_isRounded (F : Prec) : isRounded F 0 (.fin false 0) := by
  rw [← rn_zero F false 1]
  exact rn_isRounded_of_eq F false 0 one_pos (by simp)

theorem toRat_not (F : Prec) (s : Bool) (m : Nat) : toRat F (!s) m = -toRat F s m := by
  cases s <;> simp [toRat, neg_div]

theorem fadd_isRounded (F : Prec) (s t : Bool) (m n : Nat) :
    isRounded F (toRat F s m + toRat F t n) (fadd F (.fin s m) (.fin t n)) := by
  simp only [fadd]
  split
  · next hst =>
    subst hst
    refine rn_isRounded_of_eq F s _ one_pos ?_
    rw [toRat, toRat]
    push_cast
    ring
  · next hst =>
    obtain rfl : t = !s := Bool.eq_not.mpr (Ne.symm hst)
    rw [toRat_not]
    split
    · next hmn =>
      rw [hmn, add_neg_cancel]
      exact zero_isRounded F
    · split
      · next hlt =>
        refine rn_isRounded_of_eq F s _ one_pos ?_
        rw [toRat, toRat, Nat.cast_sub hlt.le]
        push_cast
        ring
      · next hmn hge =>
        refine rn_isRounded_of_eq F (!s) _ one_pos ?_
        rw [Nat.cast_sub (Nat.le_of_not_lt hge)]
        cases s <;> simp [toRat] <;> ring

theorem fsub_isRounded (F : Prec) (s t : Bool) (m n : Nat) :
    isRounded F (toRat F s m - toRat F t n) (fsub F (.fin s m) (.fin t n)) := by
  rw [sub_eq_add_neg, ← toRat_not]
  exact fadd_isRounded F s (!t) m n

theorem fmul_isRounded (F : Prec) (s t : Bool) (m n : Nat) :
    isRounded F (toRat F s m * toRat F t n) (fmul F (.fin s m) (.fin t n)) := by
  refine rn_isRounded_of_eq F (s ^^ t) _ (Nat.two_pow_pos _) ?_
  cases s <;> cases t <;> simp [toRat] <;> ring

theorem fdiv_fin_fin (F : Prec) (s t : Bool) (m : Nat) {n : Nat} (hn : n ≠ 0) :
    fdiv F (.fin s m) (.fin t n) = rn F (s ^^ t) (m * 2 ^ F.unitExp) n := if_neg hn

theorem fdiv_isRounded (F : Prec) (s t : Bool) (m : Nat) {n : Nat} (hn : n ≠ 0) :
    isRounded F (toRat F s m / toRat F t n) (fdiv F (.fin s m) (.fin t n)) := by
  rw [fdiv_fin_fin F s t m hn]
  refine rn_isRounded_of_eq F (s ^^ t) _ (Nat.pos_of_ne_zero hn) ?_
  cases s <;> cases t <;> simp [toRat] <;> field_simp

/-- Settles O48: each operation computes the exact result as a quotient of units, which `rn` rounds once. -/
theorem operationsRoundTheExactResultOnce : Obligations.OperationsRoundTheExactResultOnce :=
  fun F s t m n _ _ => ⟨fadd_isRounded F s t m n, fsub_isRounded F s t m n, fmul_isRounded F s t m n, fdiv_isRounded F s t m⟩

end Sys2Proof
end

section
/-! O50: an encoding is its sign, exponent and fraction fields, and `val_F` and `bits_F` are given by the fields. -/

namespace Sys2Proof

/-! ### The fields of an encoding -/

/-- The bit pattern with sign `s`, exponent field `e` and fraction field `f` (R12). -/
def packFields (F : Prec) (s : Bool) (e f : Nat) : Nat := signBits F s + (e * 2 ^ F.fracBits + f)

/-- The magnitude that a finite number's exponent field `e` and fraction field `f` stand for (R12). -/
def fieldsMag (F : Prec) (e f : Nat) : Nat := (if e = 0 then f else 2 ^ F.fracBits + f) * 2 ^ (e - 1)

theorem Prec.width_eq (F : Prec) : F.width = F.fracBits + F.expBits + 1 := by cases F <;> rfl

theorem Prec.topExp_eq (F : Prec) : F.topExp = F.fracBits + (2 ^ F.expBits - 2) := by cases F <;> rfl

theorem Prec.two_lt_two_pow_expBits (F : Prec) : 2 < 2 ^ F.expBits := by cases F <;> decide

theorem signBits_eq (F : Prec) (s : Bool) : signBits F s = s.toNat * 2 ^ (F.fracBits + F.expBits) := by
  cases s <;> simp [signBits, F.width_eq]

theorem packFields_eq (F : Prec) (s : Bool) (e f : Nat) :
    packFields F s e f = 2 ^ F.fracBits * (2 ^ F.expBits * s.toNat + e) + f := by
  rw [packFields, signBits_eq, pow_add]
  ring

section
variable (F : Prec) (s : Bool) {e f : Nat} (he : e < 2 ^ F.expBits) (hf : f < 2 ^ F.fracBits)
include hf

theorem packFields_div : packFields F s e f / 2 ^ F.fracBits = 2 ^ F.expBits * s.toNat + e := by
  rw [packFields_eq, Nat.mul_add_div (Nat.two_pow_pos _), Nat.div_eq_of_lt hf, add_zero]

theorem packFields_frac : packFields F s e f % 2 ^ F.fracBits = f := by
  rw [packFields_eq, Nat.mul_add_mod, Nat.mod_eq_of_lt hf]

include he

theorem packFields_exp : packFields F s e f / 2 ^ F.fracBits % 2 ^ F.expBits = e := by
  rw [packFields_div F s hf, Nat.mul_add_mod, Nat.mod_eq_of_lt he]

theorem packFields_sign : (packFields F s e f).testBit (F.width - 1) = s := by
  rw [Nat.testBit_eq_decide_div_mod_eq, F.width_eq, Nat.add_sub_cancel, pow_add, ← Nat.div_div_eq_div_mul,
    packFields_div F s hf, Nat.mul_add_div (Nat.two_pow_pos _), Nat.div_eq_of_lt he]
  cases s <;> rfl

theorem packFields_lt : packFields F s e f < 2 ^ F.width := by
  rw [F.width_eq, add_assoc, pow_add, mul_comm, ← Nat.div_lt_iff_lt_mul (Nat.two_pow_pos _), packFields_div F s hf, pow_succ]
  cases s <;> simp <;> omega

end

/-- Every bit pattern of the format's width is made of a sign, an exponent and a fraction field. -/
theorem exists_packFields (F : Prec) {v : Nat} (hv : v < 2 ^ F.width) :
    ∃ s e f, e < 2 ^ F.expBits ∧ f < 2 ^ F.fracBits ∧ v = packFields F s e f := by
  have hs : v / 2 ^ F.fracBits / 2 ^ F.expBits < 2 := by
    rw [Nat.div_div_eq_div_mul, ← pow_add, Nat.div_lt_iff_lt_mul (Nat.two_pow_pos _), ← pow_succ', ← F.width_eq]
    exact hv
  refine ⟨decide (v / 2 ^ F.fracBits / 2 ^ F.expBits = 1), v / 2 ^ F.fracBits % 2 ^ F.expBits, v % 2 ^ F.fracBits,
    Nat.mod_lt _ (Nat.two_pow_pos _), Nat.mod_lt _ (Nat.two_pow_pos _), ?_⟩
  have hbool : (decide (v / 2 ^ F.fracBits / 2 ^ F.expBits = 1)).toNat = v / 2 ^ F.fracBits / 2 ^ F.expBits := by
    interval_cases v / 2 ^ F.fracBits / 2 ^ F.expBits <;> rfl
  rw [packFields_eq, hbool, Nat.div_add_mod, Nat.div_add_mod]

/-! ### The value of the fields -/

section
variable (F : Prec) (s : Bool) {e f : Nat} (hf : f < 2 ^ F.fracBits)
include hf

theorem val_packFields (he : e < 2 ^ F.expBits) :
    val F (packFields F s e f) =
      if e = 2 ^ F.expBits - 1 then (if f = 0 then .inf s else .nan) else .fin s (fieldsMag F e f) := by
  rw [val, packFields_exp F s he hf, packFields_frac F s hf, packFields_sign F s he hf, fieldsMag]
  split
  · rfl
  · split
    · next h0 => simp [h0]
    · rfl

theorem magBits_fieldsMag : magBits F (fieldsMag F e f) = e * 2 ^ F.fracBits + f := by
  rcases Nat.eq_zero_or_pos e with rfl | hpos
  · rw [fieldsMag, if_pos rfl, magBits_mul_two_pow F (by omega) (.inl rfl)]
  · rw [fieldsMag, if_neg hpos.ne', magBits_mul_two_pow F (by omega) (.inr (Nat.le_add_right _ _)), ← add_assoc,
      ← Nat.succ_mul, Nat.succ_eq_add_one, Nat.sub_add_cancel hpos]

theorem bits_fieldsMag (n : Nat) : bits F n (.fin s (fieldsMag F e f)) = packFields F s e f := by
  rw [bits, magBits_fieldsMag F hf, packFields]

theorem fieldsMag_holds (he : e < 2 ^ F.expBits - 1) : F.holds (fieldsMag F e f) := by
  have hk : (if e = 0 then f else 2 ^ F.fracBits + f) < 2 ^ (F.fracBits + 1) := by
    split <;> omega
  refine ⟨?_, _, _, hk, rfl⟩
  have := F.two_lt_two_pow_expBits
  calc fieldsMag F e f < 2 ^ (F.fracBits + 1) * 2 ^ (e - 1) := Nat.mul_lt_mul_of_pos_right hk (Nat.two_pow_pos _)
    _ = 2 ^ (F.fracBits + 1 + (e - 1)) := (pow_add _ _ _).symm
    _ ≤ 2 ^ F.topExp := Nat.pow_le_pow_right two_pos (by rw [F.topExp_eq]; omega)

end

/-- The finite magnitudes of the format are those of the fields below the exponent field of all ones. -/
theorem exists_fieldsMag_of_holds (F : Prec) {m : Nat} (h : F.holds m) :
    ∃ e f, e < 2 ^ F.expBits - 1 ∧ f < 2 ^ F.fracBits ∧ m = fieldsMag F e f := by
  obtain ⟨hlt, k, e, hk, hm⟩ := h
  have := F.two_lt_two_pow_expBits
  rcases Nat.lt_or_ge m (2 ^ F.fracBits) with hsub | hnorm
  · exact ⟨0, m, by omega, hsub, by simp [fieldsMag]⟩
  · have hne : m ≠ 0 := ((Nat.two_pow_pos _).trans_le hnorm).ne'
    obtain ⟨c, hc⟩ : ∃ c, m.log2 = F.fracBits + c := Nat.exists_eq_add_of_le ((Nat.le_log2 hne).mpr hnorm)
    have hspacing : spacing F m 1 = c := by
      rw [spacing, Nat.div_one, hc, Nat.add_sub_cancel_left]
    obtain ⟨q, hq⟩ : 2 ^ c ∣ m := hspacing ▸ Dvd.intro_left _ (rnMag_of_significant F hk hm)
    have hlow : 2 ^ F.fracBits ≤ q := by
      have := Nat.log2_self_le hne
      rw [hc, pow_add, mul_comm] at this
      exact Nat.le_of_mul_le_mul_left (hq ▸ this) (Nat.two_pow_pos c)
    have hhigh : q < 2 ^ (F.fracBits + 1) := by
      have := Nat.lt_log2_self (n := m)
      rw [hc, add_right_comm, pow_add, mul_comm] at this
      exact Nat.lt_of_mul_lt_mul_left (hq ▸ this)
    have htop : F.fracBits + c < F.topExp := hc ▸ (Nat.log2_lt hne).mpr hlt
    rw [F.topExp_eq] at htop
    refine ⟨c + 1, q - 2 ^ F.fracBits, by omega, by omega, ?_⟩
    rw [fieldsMag, if_neg c.succ_ne_zero, Nat.add_sub_cancel' hlow, Nat.add_sub_cancel, hq, mul_comm]

/-! ### NaN encodings -/

theorem exists_bits_nan (F : Prec) (n : Nat) :
    ∃ s f, f < 2 ^ F.fracBits ∧ f ≠ 0 ∧ bits F n .nan = packFields F s (2 ^ F.expBits - 1) f := by
  have h1 : 1 < 2 ^ F.fracBits := by cases F <;> decide
  refine ⟨_, if (Config.freeNaN n).toNat % 2 ^ F.fracBits = 0 then 1 else (Config.freeNaN n).toNat % 2 ^ F.fracBits, ?_, ?_,
    Nat.add_assoc _ _ _⟩
  · split
    · exact h1
    · exact Nat.mod_lt _ (Nat.two_pow_pos _)
  · split <;> omega

theorem bits_inf (F : Prec) (n : Nat) (s : Bool) : bits F n (.inf s) = packFields F s (2 ^ F.expBits - 1) 0 := rfl

/-! ### The two directions -/

theorem val_bits (F : Prec) (n : Nat) (x : FVal) (hx : x.ofFormat F) : bits F n x < 2 ^ F.width ∧ val F (bits F n x) = x := by
  have hones : 2 ^ F.expBits - 1 < 2 ^ F.expBits := Nat.sub_lt (Nat.two_pow_pos _) one_pos
  cases x with
  | nan =>
    obtain ⟨s, f, hf, hf0, hbits⟩ := exists_bits_nan F n
    rw [hbits, val_packFields F s hf hones, if_pos rfl, if_neg hf0]
    exact ⟨packFields_lt F s hones hf, rfl⟩
  | inf s =>
    have hf : 0 < 2 ^ F.fracBits := Nat.two_pow_pos _
    rw [bits_inf, val_packFields F s hf hones, if_pos rfl, if_pos rfl]
    exact ⟨packFields_lt F s hones hf, rfl⟩
  | fin s m =>
    obtain ⟨e, f, he, hf, rfl⟩ := exists_fieldsMag_of_holds F hx
    rw [bits_fieldsMag F s hf, val_packFields F s hf (he.trans hones), if_neg he.ne]
    exact ⟨packFields_lt F s (he.trans hones) hf, rfl⟩

theorem bits_val (F : Prec) (n : Nat) {v : Nat} (hv : v < 2 ^ F.width) (hnan : val F v ≠ .nan) :
    bits F n (val F v) = v ∧ (val F v).ofFormat F := by
  obtain ⟨s, e, f, he, hf, rfl⟩ := exists_packFields F hv
  rw [val_packFields F s hf he] at hnan ⊢
  by_cases hones : e = 2 ^ F.expBits - 1
  · rw [if_pos hones] at hnan ⊢
    by_cases hf0 : f = 0
    · rw [if_pos hf0, bits_inf, hones, hf0]
      exact ⟨rfl, trivial⟩
    · exact absurd (if_neg hf0) hnan
  · rw [if_neg hones, bits_fieldsMag F s hf]
    exact ⟨rfl, fieldsMag_holds F hf (by omega)⟩

theorem isNaNPattern_bits_nan (F : Prec) (n : Nat) : isNaNPattern F (bits F n .nan) := by
  obtain ⟨s, f, hf, hf0, hbits⟩ := exists_bits_nan F n
  rw [hbits, isNaNPattern, packFields_exp F s (Nat.sub_lt (Nat.two_pow_pos _) one_pos) hf, packFields_frac F s hf]
  exact ⟨rfl, hf0⟩

/-- Settles O50: an encoding is made of its fields, and `val_F` and `bits_F` agree on what each triple of fields stands for. -/
theorem bitsAndValAreInverse : Obligations.BitsAndValAreInverse :=
  fun F n => ⟨val_bits F n, fun _ => bits_val F n, isNaNPattern_bits_nan F n⟩

end Sys2Proof
end

section
/-! O49: the results on zeros, infinities and NaNs. -/

namespace Sys2Proof

/-- A rounding keeps the sign: its result is an infinity or a finite number of that sign. -/
theorem rn_inf_or_fin (F : Prec) (s : Bool) (n d : Nat) : rn F s n d = .inf s ∨ ∃ k, rn F s n d = .fin s k := by
  unfold rn
  split
  · exact .inr ⟨_, rfl⟩
  · exact .inl rfl

/-! ### Sums -/

theorem fadd_fin_not (F : Prec) (s : Bool) (m : Nat) : fadd F (.fin s m) (.fin (!s) m) = .fin false 0 := by
  simp [fadd]

theorem fadd_fin_zero (F : Prec) (s t : Bool) {m : Nat} (h : F.holds m) (hm : m ≠ 0) :
    fadd F (.fin s m) (.fin t 0) = .fin s m := by
  simp [fadd, hm, Nat.pos_of_ne_zero hm, rn_of_holds F s h]

theorem fadd_zero_fin (F : Prec) (s t : Bool) {m : Nat} (h : F.holds m) (hm : m ≠ 0) :
    fadd F (.fin t 0) (.fin s m) = .fin s m := by
  by_cases hts : t = s
  · simp [fadd, hts, rn_of_holds F s h]
  · simp [fadd, hts, hm.symm, rn_of_holds F s h]

theorem fadd_zero_same (F : Prec) (s : Bool) : fadd F (.fin s 0) (.fin s 0) = .fin s 0 := by
  simp [fadd]

theorem fadd_inf_same (F : Prec) (s : Bool) : fadd F (.inf s) (.inf s) = .inf s := if_pos rfl

theorem fadd_inf_not (F : Prec) (s : Bool) : fadd F (.inf s) (.inf (!s)) = .nan := by
  simp [fadd]

theorem fsub_inf_same (F : Prec) (s : Bool) : fsub F (.inf s) (.inf s) = .nan := fadd_inf_not F s

theorem fsub_inf_not (F : Prec) (s : Bool) : fsub F (.inf s) (.inf (!s)) = .inf s := by
  simp [fsub, FVal.neg, fadd]

/-! ### Products and quotients -/

theorem fmul_inf_fin (F : Prec) (s t : Bool) {n : Nat} (hn : n ≠ 0) : fmul F (.inf s) (.fin t n) = .inf (s ^^ t) := if_neg hn

theorem fmul_fin_inf (F : Prec) (s t : Bool) {n : Nat} (hn : n ≠ 0) : fmul F (.fin s n) (.inf t) = .inf (s ^^ t) := if_neg hn

theorem fmul_zero_fin (F : Prec) (s t : Bool) (n : Nat) : fmul F (.fin s 0) (.fin t n) = .fin (s ^^ t) 0 := by
  simp [fmul]

theorem fmul_fin_zero (F : Prec) (s t : Bool) (n : Nat) : fmul F (.fin s n) (.fin t 0) = .fin (s ^^ t) 0 := by
  simp [fmul]

theorem fdiv_fin_zero (F : Prec) (s t : Bool) {m : Nat} (hm : m ≠ 0) : fdiv F (.fin s m) (.fin t 0) = .inf (s ^^ t) := if_neg hm

theorem fdiv_zero_fin (F : Prec) (s t : Bool) {n : Nat} (hn : n ≠ 0) : fdiv F (.fin s 0) (.fin t n) = .fin (s ^^ t) 0 := by
  rw [fdiv_fin_fin F s t 0 hn, zero_mul, rn_zero]

/-- Settles O49: the operands' constructors decide each result, but for those a rounding gives; the rounding of 0 units is 0, of a
number of the format that number, and it keeps the sign. -/
theorem specialValuesFollowTheStandard : Obligations.SpecialValuesFollowTheStandard := by
  intro F s t m n x hm
  refine ⟨⟨fadd_fin_not F s m, fadd_inf_not F s, fsub_inf_same F s, rfl, rfl, rfl, rfl, fun hm0 => ?_⟩, ?_, ?_, ?_,
    fmul_zero_fin F s t n, fmul_fin_zero F s t n, rn_inf_or_fin F _ _ _, fun hn => ⟨fdiv_zero_fin F s t hn, ?_⟩⟩
  · exact ⟨fdiv_fin_zero F s t hm0, fadd_fin_zero F s t hm hm0, fadd_zero_fin F s t hm hm0⟩
  · exact ⟨fadd_nan_left F x, fadd_nan_right F x, fsub_nan_left F x, fsub_nan_right F x, fmul_nan_left F x, fmul_nan_right F x,
      fdiv_nan_left F x, fdiv_nan_right F x⟩
  · exact ⟨fadd_zero_same F s, fadd_inf_same F s, fsub_inf_not F s, rfl, rfl, rfl, rfl⟩
  · exact ⟨rfl, fun hn => ⟨fmul_inf_fin F s t hn, fmul_fin_inf F s t hn⟩, rfl, rfl⟩
  · rw [fdiv_fin_fin F s t m hn]
    exact rn_inf_or_fin F _ _ _

end Sys2Proof
end

section
/-! What a command that passes its checks writes, said once for all 19, and from it which stores a command may write (O22). -/

namespace Sys2Proof.Machine

/-- A first check that passed, and what followed it. -/
theorem seq_ok {α : Type} {c : Except CommandError Unit} {k : Except CommandError α} {v : α}
    (h : (do c; k : Except CommandError α) = .ok v) : c = .ok () ∧ k = .ok v := by
  cases c with
  | ok _ => exact ⟨rfl, h⟩
  | error _ => cases h

/-- The writes a command `i` can make in `s` before it completes: one constructor for each store, with the checks the write
rests on. -/
inductive Writes (s : State) : Instr → State → Prop where
  | nothing : Writes s .nop s
  | flag : Writes s .errclr (s.setStat s.stat.clearSticky)
  | pixel {i : Instr} (n : Fin 4) (p : Pixel)
      (hi : (∃ n fmt, i = .pxnew n fmt) ∨ ∃ n, i = .mget n) : Writes s i (s.setPx n p)
  | result {i : Instr} (w : Word)
      (hi : ∃ n, i = .pxr n ∨ i = .pxg n ∨ i = .pxb n ∨ i = .pxy n ∨ i = .pxcb n ∨ i = .pxcr n) :
      Writes s i ((s.setRes w).draw 1)
  | newMatrix (hc : checkCapacity s.plat s.opnd = .ok ()) :
      Writes s .mnew (s.setMat (PixelMatrix.new s.opnd.argh.toNat s.opnd.argw.toNat))
  | rasterMatrix (hc : checkCapacity s.plat s.opnd = .ok ()) : Writes s .mfrr (s.setMat (matrixFromRaster s.raster s.opnd))
  | cell (n : Fin 4) (hc : checkInside s.mat s.opnd = .ok ()) :
      Writes s (.mset n) (s.setMat (s.mat.setCell s.opnd.row.toNat s.opnd.col.toNat (s.px.get n)))
  | raster (hc : s.checkExport = .ok ()) :
      Writes s .mtor ((s.setRaster (s.raster.writeAll s.exportWrites)).draw s.exportCount)
  | output {i : Instr} (g : Grid) (hi : ∃ F, i = .dcta F ∨ i = .idcta F ∨ i = .dctb F ∨ i = .idctb F) :
      Writes s i ((s.setGout g).draw 64)
  | input : Writes s .gmov (s.setGin s.gout)

/-- The inversion lemma of `body`. -/
theorem body_ok_writes {i : Instr} {s u : State} (h : body i s = .ok u) : Writes s i u := by
  cases i with
  | nop => cases h; exact .nothing
  | errclr => cases h; exact .flag
  | gmov => cases h; exact .input
  | pxnew n fmt =>
    simp only [body] at h
    cases ht : tagOf fmt with
    | error e => rw [ht] at h; cases h
    | ok tag => rw [ht] at h; cases h; exact .pixel n _ (.inl ⟨n, fmt, rfl⟩)
  | pxr n => cases h; exact .result _ ⟨n, .inl rfl⟩
  | pxg n => cases h; exact .result _ ⟨n, .inr (.inl rfl)⟩
  | pxb n => cases h; exact .result _ ⟨n, .inr (.inr (.inl rfl))⟩
  | pxy n => cases h; exact .result _ ⟨n, .inr (.inr (.inr (.inl rfl)))⟩
  | pxcb n => cases h; exact .result _ ⟨n, .inr (.inr (.inr (.inr (.inl rfl))))⟩
  | pxcr n => cases h; exact .result _ ⟨n, .inr (.inr (.inr (.inr (.inr rfl))))⟩
  | mnew =>
    obtain ⟨hc, rfl⟩ := bind_ok h
    exact .newMatrix hc
  | mget n =>
    obtain ⟨-, rfl⟩ := bind_ok h
    exact .pixel n _ (.inr ⟨n, rfl⟩)
  | mset n =>
    obtain ⟨hc, rfl⟩ := bind_ok h
    exact .cell n hc
  | mfrr =>
    obtain ⟨hc, h⟩ := seq_ok h
    obtain ⟨-, rfl⟩ := bind_ok h
    exact .rasterMatrix hc
  | mtor =>
    obtain ⟨hc, rfl⟩ := bind_ok h
    exact .raster hc
  | dcta F =>
    obtain ⟨-, rfl⟩ := bind_ok h
    exact .output _ ⟨F, .inl rfl⟩
  | idcta F =>
    obtain ⟨-, rfl⟩ := bind_ok h
    exact .output _ ⟨F, .inr (.inl rfl)⟩
  | dctb F =>
    obtain ⟨-, rfl⟩ := bind_ok h
    exact .output _ ⟨F, .inr (.inr (.inl rfl))⟩
  | idctb F =>
    obtain ⟨-, rfl⟩ := bind_ok h
    exact .output _ ⟨F, .inr (.inr (.inr rfl))⟩

/-- Settles O22: of each kind of write, and of an error taken, every store but the one written is as before. -/
theorem eachStoreHasItsWriters : Obligations.EachStoreHasItsWriters := by
  intro i s t h
  obtain ⟨u, hu, rfl⟩ | ⟨e, -, rfl⟩ := exec_cases h
  · cases body_ok_writes hu with
    | nothing | flag =>
      exact ⟨rfl, rfl, rfl, rfl, absurd rfl, absurd rfl, absurd rfl, absurd rfl, absurd rfl, absurd rfl⟩
    | pixel n p hi => exact ⟨rfl, rfl, rfl, rfl, fun _ => hi, absurd rfl, absurd rfl, absurd rfl, absurd rfl, absurd rfl⟩
    | result w hi => exact ⟨rfl, rfl, rfl, rfl, absurd rfl, fun _ => hi, absurd rfl, absurd rfl, absurd rfl, absurd rfl⟩
    | newMatrix =>
      exact ⟨rfl, rfl, rfl, rfl, absurd rfl, absurd rfl, fun _ => .inl rfl, absurd rfl, absurd rfl, absurd rfl⟩
    | rasterMatrix =>
      exact ⟨rfl, rfl, rfl, rfl, absurd rfl, absurd rfl, fun _ => .inr (.inl rfl), absurd rfl, absurd rfl, absurd rfl⟩
    | cell n =>
      exact ⟨rfl, rfl, rfl, rfl, absurd rfl, absurd rfl, fun _ => .inr (.inr ⟨n, rfl⟩), absurd rfl, absurd rfl, absurd rfl⟩
    | input => exact ⟨rfl, rfl, rfl, rfl, absurd rfl, absurd rfl, absurd rfl, fun _ => rfl, absurd rfl, absurd rfl⟩
    | output g hi => exact ⟨rfl, rfl, rfl, rfl, absurd rfl, absurd rfl, absurd rfl, absurd rfl, fun _ => hi, absurd rfl⟩
    | raster => exact ⟨rfl, rfl, rfl, rfl, absurd rfl, absurd rfl, absurd rfl, absurd rfl, absurd rfl, fun _ => rfl⟩
  · exact ⟨rfl, rfl, rfl, rfl, absurd rfl, absurd rfl, absurd rfl, absurd rfl, absurd rfl, absurd rfl⟩

end Sys2Proof.Machine
end

section
/-! O16, O15, O30: the invariant. Its clauses speak of four parts of the state, the parameters, the raster, the Matrix and the
status registers, and each kind of write keeps the part it touches. -/

namespace Sys2Proof.Machine

/-! ### The parts of the invariant -/

/-- The clauses of `State.Inv` about the Matrix (R35, R38). -/
structure PixelMatrix.Legal (p : Platform) (m : PixelMatrix) : Prop where
  heightPadded : m.height.toNat % Config.bs = 0
  widthPadded : m.width.toNat % Config.bs = 0
  capacity : m.height.toNat * m.width.toNat ≤ p.matcap
  cells : sparseWf Pixel.black (m.height.toNat * m.width.toNat) m.cells

/-- The clauses of `State.Inv` about the status registers (R24, R271, R274). -/
structure StatusRegs.Legal (r : StatusRegs) : Prop where
  codes : r.lastErr ∈ [0x00#8, 0x01#8, 0x02#8, 0x10#8, 0x11#8, 0x12#8]
  sticky : r.lastErr ≠ 0 → r.sticky = true

theorem State.inv_iff {s : State} :
    s.Inv ↔ s.plat.legal ∧ Memory.wf s.raster ∧ s.mat.Legal s.plat ∧ s.stat.Legal :=
  ⟨fun ⟨hp, hr, hh, hw, hm, hc, he, hs⟩ => ⟨hp, hr, ⟨hh, hw, hm, hc⟩, he, hs⟩,
    fun ⟨hp, hr, ⟨hh, hw, hm, hc⟩, he, hs⟩ => ⟨hp, hr, hh, hw, hm, hc, he, hs⟩⟩

/-! ### The Matrix -/

theorem pad8_mod (n : Nat) : pad8 n % Config.bs = 0 := Nat.mul_mod_left ..

theorem le_pad8 (n : Nat) : n ≤ pad8 n := by
  unfold pad8
  omega

section
variable {p : Platform} {o : OperandRegs}

/-- The size of the Matrix that `MNEW` and `MFRR` build, when the capacity check passes (R163, R164). -/
theorem PixelMatrix.new_size (hc : checkCapacity p o = .ok ()) :
    (PixelMatrix.new o.argh.toNat o.argw.toNat).height.toNat = pad8 o.argh.toNat ∧
      (PixelMatrix.new o.argh.toNat o.argw.toNat).width.toNat = pad8 o.argw.toNat ∧
      pad8 o.argh.toNat * pad8 o.argw.toNat ≤ p.matcap := by
  have h := (checkCapacity_ok_iff p o).mp hc
  simp only [fitsMatrix, Bool.and_eq_true, decide_eq_true_eq] at h
  obtain ⟨⟨hh, hw⟩, hcap⟩ := h
  exact ⟨(BitVec.toNat_ofNat ..).trans (Nat.mod_eq_of_lt hh), (BitVec.toNat_ofNat ..).trans (Nat.mod_eq_of_lt hw), hcap⟩

theorem PixelMatrix.new_legal (hc : checkCapacity p o = .ok ()) :
    (PixelMatrix.new o.argh.toNat o.argw.toNat).Legal p := by
  obtain ⟨hh, hw, hcap⟩ := PixelMatrix.new_size hc
  exact ⟨hh ▸ pad8_mod _, hw ▸ pad8_mod _, by rwa [hh, hw], .nil, by simp [PixelMatrix.new]⟩

/-- Storing a cell inside the bounds keeps a legal Matrix legal: its linear index is below `MH * MW` (R38, R166). -/
theorem PixelMatrix.setCell_legal {m : PixelMatrix} (hm : m.Legal p) {r c : Nat} (hr : r < m.height.toNat)
    (hc : c < m.width.toNat) (x : Pixel) : (m.setCell r c x).Legal p := by
  have hlt : linearIndex m.width.toNat r c < m.height.toNat * m.width.toNat :=
    calc r * m.width.toNat + c < (r + 1) * m.width.toNat := by rw [Nat.succ_mul]; omega
      _ ≤ m.height.toNat * m.width.toNat := Nat.mul_le_mul_right _ hr
  exact ⟨hm.heightPadded, hm.widthPadded, hm.capacity, sparseSet_wf _ _ _ _ _ hm.cells hlt⟩

/-- Storing a list of cells that lie inside the bounds keeps a legal Matrix legal. -/
theorem PixelMatrix.foldl_setCell_legal (f : Nat × Nat → Pixel) (l : List (Nat × Nat)) {m : PixelMatrix} (hm : m.Legal p)
    (hl : ∀ rc ∈ l, rc.1 < m.height.toNat ∧ rc.2 < m.width.toNat) :
    (l.foldl (fun x rc => x.setCell rc.1 rc.2 (f rc)) m).Legal p := by
  induction l generalizing m with
  | nil => exact hm
  | cons rc l ih =>
    obtain ⟨hr, hc⟩ := hl rc List.mem_cons_self
    exact ih (setCell_legal hm hr hc _) fun x hx => hl x (List.mem_cons_of_mem _ hx)

theorem matrixFromRaster_legal (m : Memory) (hc : checkCapacity p o = .ok ()) : (matrixFromRaster m o).Legal p := by
  refine PixelMatrix.foldl_setCell_legal (fun rc => rasterPixel m o rc.1 rc.2) _ (PixelMatrix.new_legal hc) fun rc hrc => ?_
  obtain ⟨hh, hw, -⟩ := PixelMatrix.new_size hc
  obtain ⟨hr, hc⟩ := mem_rasterPixels.mp hrc
  rw [hh, hw]
  exact ⟨hr.trans_le (le_pad8 _), hc.trans_le (le_pad8 _)⟩

end

/-! ### The raster -/

/-- When the checks of `MTOR` pass, every byte it writes has a raster address (R73, R168). -/
theorem exportWrites_lt {s : State} (hc : s.checkExport = .ok ()) : ∀ e ∈ s.exportWrites, e.1 < 2 ^ 32 := by
  obtain ⟨-, hf⟩ := seq_ok hc
  intro e he
  obtain ⟨p, hp, rfl⟩ := List.mem_map.mp he
  have ha := (checkFootprint_ok_iff _ _ _).mp hf (p.addr s.opnd) (List.mem_map_of_mem hp)
  simp only [accessible, Bool.and_eq_true, decide_eq_true_eq] at ha
  exact ha.1

/-- The bytes an abandoned command leaves behind have raster addresses (R310). -/
theorem abandonedWrites_lt (s : State) (w : Word) (n : Nat) : ∀ e ∈ s.abandonedWrites w n, e.1 < 2 ^ 32 := by
  intro e he
  unfold State.abandonedWrites at he
  split at he
  · split at he
    · next hc => exact exportWrites_lt hc e (List.mem_of_mem_take he)
    · cases he
  · cases he

/-! ### The status registers -/

theorem StatusRegs.completed_legal (r : StatusRegs) : r.completed.Legal :=
  ⟨List.mem_cons_self, absurd rfl⟩

theorem CommandError.code_mem (e : CommandError) : e.code ∈ [0x00#8, 0x01#8, 0x02#8, 0x10#8, 0x11#8, 0x12#8] := by
  cases e <;> simp [CommandError.code]

theorem StatusRegs.raised_legal (r : StatusRegs) (e : CommandError) : (r.raised e).Legal :=
  ⟨e.code_mem, fun _ => rfl⟩

/-! ### Commands and events -/

/-- The writes of a command keep the parts of the invariant other than the status registers, which its end writes. -/
theorem Writes.keep {i : Instr} {s u : State} (h : Writes s i u) (hs : s.Inv) :
    u.plat = s.plat ∧ Memory.wf u.raster ∧ u.mat.Legal s.plat := by
  obtain ⟨-, hr, hm, -⟩ := State.inv_iff.mp hs
  cases h with
  | nothing | flag | pixel | result | output | input => exact ⟨rfl, hr, hm⟩
  | newMatrix hc => exact ⟨rfl, hr, PixelMatrix.new_legal hc⟩
  | rasterMatrix hc => exact ⟨rfl, hr, matrixFromRaster_legal _ hc⟩
  | cell n hc =>
    obtain ⟨hrow, hcol⟩ := (checkInside_ok_iff _ _).mp hc
    exact ⟨rfl, hr, PixelMatrix.setCell_legal hm hrow hcol _⟩
  | raster hc => exact ⟨rfl, Memory.writeAll_wf _ _ hr (exportWrites_lt hc), hm⟩

theorem State.Inv.setHost {s : State} (hs : s.Inv) (l : List HostEvent) : (s.setHost l).Inv := by
  obtain ⟨hp, hr, hm, hst⟩ := State.inv_iff.mp hs
  exact State.inv_iff.mpr ⟨hp, hr, hm, hst⟩

theorem State.raiseError_inv {s : State} (hs : s.Inv) (e : CommandError) : (s.raiseError e).Inv := by
  obtain ⟨hp, hr, hm, -⟩ := State.inv_iff.mp hs
  exact State.inv_iff.mpr ⟨hp, hr, hm, StatusRegs.raised_legal _ e⟩

theorem exec_keeps_inv {i : Instr} {s t : State} (hs : s.Inv) (h : exec i s = .next t) : t.Inv := by
  obtain ⟨u, hu, rfl⟩ | ⟨e, -, rfl⟩ := exec_cases h
  · obtain ⟨hplat, hr, hm⟩ := (body_ok_writes hu).keep hs
    exact State.inv_iff.mpr ⟨hplat ▸ hs.platform, hr, hplat ▸ hm, StatusRegs.completed_legal _⟩
  · exact State.raiseError_inv hs e

theorem State.afterReset_inv {p : Platform} {m : Memory} (hp : p.legal) (hm : Memory.wf m) (h : List HostEvent)
    (reads : List Word) (draws : Nat) : (State.afterReset p m h reads draws).Inv :=
  State.inv_iff.mpr ⟨hp, hm, ⟨rfl, rfl, Nat.zero_le _, .nil, by simp [State.afterReset, PixelMatrix.reset]⟩,
    List.mem_cons_self, absurd rfl⟩

/-- A register or window write touches the operand registers and `GIN` at most. -/
theorem State.busWrite_eq_set (s : State) (off : Offset) (v : Word) : ∃ o g, s.busWrite off v = (s.setOpnd o).setGin g := by
  unfold State.busWrite
  split
  · exact ⟨_, s.gin, rfl⟩
  · exact ⟨s.opnd, _, rfl⟩
  · exact ⟨s.opnd, s.gin, rfl⟩
  · exact ⟨s.opnd, s.gin, rfl⟩

theorem runEvent_keeps_inv {s t : State} {e : HostEvent} (hs : s.Inv) (h : s.runEvent e = .next t) : t.Inv := by
  obtain ⟨hp, hr, hm, hst⟩ := State.inv_iff.mp hs
  obtain ⟨off, v, rfl, -, -, rfl⟩ | ⟨w, i, rfl, -, he⟩ | ⟨w, x, rfl, -, rfl⟩ | ⟨off, rfl, -, rfl⟩ | ⟨rfl, rfl⟩ |
    ⟨w, n, rfl, rfl⟩ | ⟨a, v, rfl, rfl⟩ := runEvent_cases h
  · obtain ⟨o, g, hw⟩ := s.busWrite_eq_set off v
    exact hw ▸ State.inv_iff.mpr ⟨hp, hr, hm, hst⟩
  · exact exec_keeps_inv hs he
  · exact State.raiseError_inv hs _
  · exact State.inv_iff.mpr ⟨hp, hr, hm, hst⟩
  · exact State.afterReset_inv hp hr _ _ _
  · exact State.afterReset_inv hp (Memory.writeAll_wf _ _ hr (abandonedWrites_lt s w n)) _ _ _
  · exact State.inv_iff.mpr ⟨hp, Memory.write_wf _ _ _ hr a.isLt, hm, hst⟩

/-- Settles O16: an event other than a command touches parts of the state the invariant does not speak of, resets them, or
stores one byte at an address; a command keeps each part. -/
theorem stepKeepsTheInvariant : Obligations.StepKeepsTheInvariant := by
  intro s t hs h
  obtain ⟨-, rfl⟩ | ⟨e, rest, -, he⟩ := step_cases h
  · exact hs
  · exact runEvent_keeps_inv (hs.setHost rest) he

/-- Settles O15: the suggested parameters are legal, and nothing is in raster memory. -/
theorem resetStateMeetsTheInvariant : Obligations.ResetStateMeetsTheInvariant :=
  State.afterReset_inv (by decide) ⟨.nil, by simp⟩ _ _ _

/-! ### Negative indices -/

theorem checkInside_outside {m : PixelMatrix} {o : OperandRegs}
    (h : ¬(o.row.toNat < m.height.toNat ∧ o.col.toNat < m.width.toNat)) :
    checkInside m o = .error (.indexOutOfRange o.row o.col) := by
  rw [checkInside, if_neg]
  simpa [PixelMatrix.inside] using h

/-- An index inside a Matrix within its capacity is below 2^30, since the other extent is at least 1. -/
theorem State.Inv.index_lt {s : State} (hs : s.Inv) {r c : Nat} (hr : r < s.mat.height.toNat) (hc : c < s.mat.width.toNat) :
    r < 2 ^ 30 ∧ c < 2 ^ 30 := by
  have hcap : s.mat.height.toNat * s.mat.width.toNat ≤ 2 ^ 30 := hs.capacity.trans hs.platform.2.2
  exact ⟨hr.trans_le ((Nat.le_mul_of_pos_right _ (by omega)).trans hcap),
    hc.trans_le ((Nat.le_mul_of_pos_left _ (by omega)).trans hcap)⟩

/-- Settles O30: an index inside the Matrix is far below 2^31, so the bounds check fails and the command raises. -/
theorem negativeIndexAlwaysRaises : Obligations.NegativeIndexAlwaysRaises := by
  intro s px hs hneg
  have hout : checkInside s.mat s.opnd = .error (.indexOutOfRange s.opnd.row s.opnd.col) := by
    refine checkInside_outside fun ⟨hr, hc⟩ => ?_
    have := hs.index_lt hr hc
    omega
  constructor
  · rw [exec_eq_conclude, body, hout]
    rfl
  · rw [exec_eq_conclude, body, hout]
    rfl

end Sys2Proof.Machine
end

section
/-! O18, O19: the command counter and `STICKY`. -/

namespace Sys2Proof.Machine

/-! ### What a command does to the status registers -/

/-- The writes of a command leave the status registers alone, but for `ERRCLR`. -/
theorem Writes.stat {i : Instr} {s u : State} (h : Writes s i u) :
    u.stat = s.stat ∨ i = .errclr ∧ u.stat = s.stat.clearSticky := by
  cases h with
  | flag => exact .inr ⟨rfl, rfl⟩
  | nothing | pixel | result | newMatrix | rasterMatrix | cell | raster | output | input => exact .inl rfl

/-- Every command counts once (R27, R101). -/
theorem exec_cmdCnt {i : Instr} {s t : State} (h : exec i s = .next t) : t.stat.cmdCnt = s.stat.cmdCnt + 1 := by
  obtain ⟨u, hu, rfl⟩ | ⟨e, -, rfl⟩ := exec_cases h
  · obtain hst | ⟨-, hst⟩ := (body_ok_writes hu).stat <;> simp [hst]
  · rfl

/-- A command other than `ERRCLR` leaves `STICKY` set (R24, R261). -/
theorem exec_sticky {i : Instr} {s t : State} (h : exec i s = .next t) (hi : i ≠ .errclr) (hs : s.stat.sticky = true) :
    t.stat.sticky = true := by
  obtain ⟨u, hu, rfl⟩ | ⟨e, -, rfl⟩ := exec_cases h
  · obtain hst | ⟨he, -⟩ := (body_ok_writes hu).stat
    · simp [hst, hs]
    · exact absurd he hi
  · rfl

@[simp] theorem State.busWrite_stat (s : State) (off : Offset) (v : Word) : (s.busWrite off v).stat = s.stat := by
  obtain ⟨o, g, hw⟩ := s.busWrite_eq_set off v
  rw [hw]
  rfl

/-- Settles O18: a word written to `CMD` counts once, as a command or as an illegal word; no other event but a reset touches the
counter. -/
theorem commandCounterCountsCommandWords : Obligations.CommandCounterCountsCommandWords := by
  intro s t h
  obtain ⟨hh, rfl⟩ | ⟨e, rest, hh, he⟩ := step_cases h
  · rw [hh]
  · rw [hh]
    obtain ⟨off, v, rfl, -, hne, rfl⟩ | ⟨w, i, rfl, -, hx⟩ | ⟨w, x, rfl, -, rfl⟩ | ⟨off, rfl, -, rfl⟩ | ⟨rfl, rfl⟩ |
      ⟨w, n, rfl, rfl⟩ | ⟨a, v, rfl, rfl⟩ := runEvent_cases he
    · exact (congrArg _ (State.busWrite_stat ..)).trans (if_neg hne).symm
    · exact (exec_cmdCnt hx).trans (if_pos rfl).symm
    · rfl
    · rfl
    · rfl
    · rfl
    · rfl

/-! ### The word of `ERRCLR` -/

section
variable {w : Word} {j : Instr}

theorem formatZ_ok_iff {i : Instr} : formatZ w i = .ok j ↔ w.extractLsb' 8 24 = 0#24 ∧ i = j := by
  unfold formatZ
  split <;> simp [*]

theorem formatP_ok_iff {mk : Fin 4 → Instr} : formatP w mk = .ok j ↔ w.extractLsb' 10 22 = 0#22 ∧ mk (pxField w) = j := by
  unfold formatP
  split <;> simp [*]

theorem formatPF_ok_iff {mk : Fin 4 → Nat → Instr} :
    formatPF w mk = .ok j ↔ (w.extractLsb' 24 8 = 0#8 ∧ w.extractLsb' 10 6 = 0#6) ∧ mk (pxField w) (fmtField w) = j := by
  unfold formatPF
  split <;> simp [*]

theorem formatT_ok_iff {mk : Prec → Instr} : formatT w mk = .ok j ↔ w.extractLsb' 9 23 = 0#23 ∧ mk (precField w) = j := by
  unfold formatT
  split <;> simp [*]

end

theorem eq_one_of_decode_errclr {w : Word} (h : decode w = .ok .errclr) : w = 0x00000001 := by
  have hop : opcodeField w = 0x01#8 := by
    unfold decode at h
    split at h
    case h_2 hop => exact hop
    all_goals simp [formatZ_ok_iff, formatP_ok_iff, formatPF_ok_iff, formatT_ok_iff] at h
  have hz : w.extractLsb' 8 24 = 0#24 := by
    simpa [decode, hop, formatZ_ok_iff] using h
  have hlow : w.toNat % 2 ^ 8 = 1 := by
    simpa [opcodeField] using congrArg BitVec.toNat hop
  have hhigh : w.toNat >>> 8 % 2 ^ 24 = 0 := by
    simpa using congrArg BitVec.toNat hz
  rw [Nat.shiftRight_eq_div_pow] at hhigh
  exact BitVec.eq_of_toNat_eq (show w.toNat = 1 by omega)

/-- Settles O19: of the commands only `ERRCLR` clears `STICKY`, and 0x00000001 is its only word; no other event but a reset
touches it. -/
theorem stickyIsClearedOnlyByErrclrAndReset : Obligations.StickyIsClearedOnlyByErrclrAndReset := by
  intro s t h hs ht
  obtain ⟨-, rfl⟩ | ⟨e, rest, hh, he⟩ := step_cases h
  · simp [hs] at ht
  · refine ⟨e, rest, hh, ?_⟩
    obtain ⟨off, v, rfl, -, -, rfl⟩ | ⟨w, i, rfl, hd, hx⟩ | ⟨w, x, rfl, -, rfl⟩ | ⟨off, rfl, -, rfl⟩ | ⟨rfl, rfl⟩ |
      ⟨w, n, rfl, rfl⟩ | ⟨a, v, rfl, rfl⟩ := runEvent_cases he
    · simp [hs] at ht
    · by_cases hi : i = .errclr
      · subst hi
        exact .inl (congrArg _ (eq_one_of_decode_errclr hd))
      · simp [exec_sticky hx hi hs] at ht
    · simp at ht
    · simp [hs] at ht
    · exact .inr (.inl rfl)
    · exact .inr (.inr ⟨w, n, rfl⟩)
    · simp [hs] at ht

end Sys2Proof.Machine
end

section
/-! O6, O53, O54, O11, O13, O10, O9: the register space. Every aligned offset is that of a register, of one half of a container
in a window, or unlisted; `busTarget`, and with it reads and writes, follow this split. -/

namespace Sys2Proof.Machine

open Sys2Proof.Claims

/-! ### The step -/

theorem step_of_host {s : State} {e : HostEvent} {rest : List HostEvent} (hh : s.host = e :: rest) :
    step s = (s.setHost rest).runEvent e := by
  rw [step, hh]

/-- Settles O6: the write to `CMD` is aligned, and its word decodes. -/
theorem stepRunsTheDecodedCommand : Obligations.StepRunsTheDecodedCommand := by
  intro s w i rest hh hd
  rw [step_of_host hh]
  change (s.setHost rest).runCommand w = exec i (s.setHost rest)
  rw [State.runCommand, hd]

/-! ### The map of R21 -/

/-- The offset of a half of container `(a, b)` in the window at `base`: the high half stands 4 above the low one (R77). -/
def halfAt (base a b : Nat) (high : Bool) : Nat := lowWordAt base a b + 4 * high.toNat

@[simp] theorem halfAt_false (base a b : Nat) : halfAt base a b false = lowWordAt base a b := rfl
@[simp] theorem halfAt_true (base a b : Nat) : halfAt base a b true = lowWordAt base a b + 4 := rfl

theorem HostReg.offset_le (r : HostReg) : r.offset.toNat ≤ 0x58 := by
  cases r <;> decide

/-- The registers stand at the multiples of 4 up to 0x58 (R21). -/
theorem HostReg.exists_offset_eq {off : Offset} (ha : off.toNat % 4 = 0) (hle : off.toNat ≤ 0x58) :
    ∃ r : HostReg, off = r.offset := by
  have hall : ∀ k : Fin 23, ∃ r ∈ HostReg.all, r.offset.toNat = 4 * k := by decide
  obtain ⟨r, -, hr⟩ := hall ⟨off.toNat / 4, by omega⟩
  exact ⟨r, BitVec.eq_of_toNat_eq (by simp only at hr; omega)⟩

/-- An offset in a window is that of one half of one container (R41, R77). -/
theorem exists_halfAt_eq {base n : Nat} (hb : base % 8 = 0) (ha : n % 4 = 0) (hlo : base ≤ n) (hhi : n < base + 0x200) :
    ∃ a b high, a < 8 ∧ b < 8 ∧ n = halfAt base a b high := by
  refine ⟨(n - base) / 64, (n - base) / 8 % 8, decide ((n - base) % 8 = 4), by omega, by omega, ?_⟩
  by_cases h : (n - base) % 8 = 4
  · simp only [h, decide_true, halfAt_true, lowWordAt]
    omega
  · simp only [h, decide_false, halfAt_false, lowWordAt]
    omega

/-- What an aligned offset can be (R21, R41, R47). -/
theorem aligned_cases {off : Offset} (ha : off.toNat % 4 = 0) :
    (∃ r : HostReg, off = r.offset) ∨
    (∃ a b high, a < 8 ∧ b < 8 ∧ off.toNat = halfAt ginBase a b high) ∨
    (∃ a b high, a < 8 ∧ b < 8 ∧ off.toNat = halfAt goutBase a b high) ∨
    ¬listed off := by
  by_cases hl : listed off
  · obtain h | ⟨hlo, hhi⟩ | ⟨hlo, hhi⟩ := hl
    · exact .inl (HostReg.exists_offset_eq ha h)
    · exact .inr (.inl (exists_halfAt_eq rfl ha hlo hhi))
    · exact .inr (.inr (.inl (exists_halfAt_eq rfl ha hlo hhi)))
  · exact .inr (.inr (.inr hl))

theorem busTarget_offset (r : HostReg) : busTarget r.offset = .reg r := by
  cases r <;> rfl

/-- Past the registers the map looks at the windows only. -/
theorem find_offset_eq_none {off : Offset} (h : 0x58 < off.toNat) : HostReg.all.find? (fun r => r.offset == off) = none := by
  refine List.find?_eq_none.mpr fun r _ hr => ?_
  have := r.offset_le
  rw [eq_of_beq hr] at this
  omega

section
variable {a b : Nat} (ha : a < 8) (hb : b < 8)
include ha hb

theorem halfAt_in_window (base : Nat) (high : Bool) :
    base ≤ halfAt base a b high ∧ halfAt base a b high < base + windowBytes := by
  have : high.toNat ≤ 1 := high.toNat_le
  simp only [halfAt, lowWordAt, windowBytes, Config.nmax]
  omega

omit ha in
/-- The indices the map computes from an offset in a window (R41, R77). -/
theorem halfAt_index (base : Nat) (high : Bool) :
    (halfAt base a b high - base) / 8 / Config.nmax = a ∧ (halfAt base a b high - base) / 8 % Config.nmax = b ∧
      decide ((halfAt base a b high - base) % 8 = 4) = high := by
  have hn : halfAt base a b high - base = 64 * a + 8 * b + 4 * high.toNat := by
    simp only [halfAt, lowWordAt]
    omega
  have hle : high.toNat ≤ 1 := high.toNat_le
  rw [hn, Config.nmax]
  refine ⟨by omega, by omega, ?_⟩
  cases high
  · exact decide_eq_false (by rw [Bool.toNat_false]; omega)
  · exact decide_eq_true (by rw [Bool.toNat_true]; omega)

variable {off : Offset} {high : Bool}

theorem busTarget_gin (h : off.toNat = halfAt ginBase a b high) : busTarget off = .gin a b high := by
  have hwin := halfAt_in_window ha hb ginBase high
  obtain ⟨hia, hib, hih⟩ := halfAt_index (a := a) hb ginBase high
  rw [busTarget, find_offset_eq_none (h ▸ Nat.lt_of_lt_of_le (by decide) hwin.1)]
  simp only [h, if_pos hwin, hia, hib, hih]

theorem busTarget_gout (h : off.toNat = halfAt goutBase a b high) : busTarget off = .gout a b high := by
  have hwin := halfAt_in_window ha hb goutBase high
  obtain ⟨hia, hib, hih⟩ := halfAt_index (a := a) hb goutBase high
  have hgin : ¬(ginBase ≤ halfAt goutBase a b high ∧ halfAt goutBase a b high < ginBase + windowBytes) :=
    fun hlt => absurd (hwin.1.trans_lt hlt.2) (by decide)
  rw [busTarget, find_offset_eq_none (h ▸ Nat.lt_of_lt_of_le (by decide) hwin.1)]
  simp only [h, if_neg hgin, if_pos hwin, hia, hib, hih]

end

theorem busTarget_unlisted {off : Offset} (h : ¬listed off) : busTarget off = .undefined := by
  obtain ⟨hreg, hgin, hgout⟩ : ¬off.toNat ≤ 0x58 ∧ ¬(ginBase ≤ off.toNat ∧ off.toNat < ginBase + windowBytes) ∧
      ¬(goutBase ≤ off.toNat ∧ off.toNat < goutBase + windowBytes) :=
    ⟨fun hr => h (.inl hr), fun hw => h (.inr (.inl hw)), fun hw => h (.inr (.inr hw))⟩
  rw [busTarget, find_offset_eq_none (by omega)]
  simp only [if_neg hgin, if_neg hgout]

/-! ### Reads -/

section
variable (s : State)

theorem busRead_offset (r : HostReg) : s.busRead r.offset = s.readReg r := by
  rw [State.busRead, busTarget_offset]

theorem busRead_gin {off : Offset} {a b : Nat} {high : Bool} (ha : a < 8) (hb : b < 8)
    (h : off.toNat = halfAt ginBase a b high) : s.busRead off = containerWord (s.gin.get a b) high := by
  rw [State.busRead, busTarget_gin ha hb h]

theorem busRead_gout {off : Offset} {a b : Nat} {high : Bool} (ha : a < 8) (hb : b < 8)
    (h : off.toNat = halfAt goutBase a b high) : s.busRead off = containerWord (s.gout.get a b) high := by
  rw [State.busRead, busTarget_gout ha hb h]

theorem busRead_unlisted {off : Offset} (h : ¬listed off) : s.busRead off = 0 := by
  rw [State.busRead, busTarget_unlisted h]

end

theorem toNat_append_eq_add {m n : Nat} (x : BitVec m) (y : BitVec n) : (x ++ y).toNat = x.toNat * 2 ^ n + y.toNat := by
  rw [BitVec.toNat_append, ← Nat.shiftLeft_add_eq_or_of_lt y.isLt, Nat.shiftLeft_eq]

/-- `STATUS` as a number (R24). -/
theorem StatusRegs.toNat_word (r : StatusRegs) : r.word.toNat = r.lastErr.toNat + if r.sticky then 2 ^ 8 else 0 := by
  unfold StatusRegs.word
  rw [toNat_append_eq_add, toNat_append_eq_add, Nat.add_comm]
  cases r.sticky <;> simp

/-- `CAPS` as a number (R36). -/
theorem toNat_capsWord {p : Platform} (h : p.pmax ≤ 255) :
    (capsWord p).toNat = 8 + p.pmax * 2 ^ 8 + 8 * 2 ^ 16 + 4 * 2 ^ 24 := by
  have hp : (BitVec.ofNat 8 p.pmax).toNat = p.pmax := by
    rw [BitVec.toNat_ofNat, Nat.mod_eq_of_lt (by omega)]
  have hcaps : (capsWord p).toNat = ((4 * 2 ^ 8 + 8) * 2 ^ 8 + (BitVec.ofNat 8 p.pmax).toNat) * 2 ^ 8 + 8 := by
    unfold capsWord
    iterate 3 rw [toNat_append_eq_add]
    rfl
  rw [hcaps, hp]
  ring

/-- Settles O53: each offset is that of its register. -/
theorem eachRegisterStandsAtItsOffset : Obligations.EachRegisterStandsAtItsOffset :=
  fun s => ⟨(congrArg _ (busRead_offset s .status)).trans s.stat.toNat_word,
    busRead_offset s .errA, busRead_offset s .errB, busRead_offset s .cmdCnt, busRead_offset s .npart, busRead_offset s .gw,
    busRead_offset s .gh, busRead_offset s .argh, busRead_offset s .argw, busRead_offset s .row, busRead_offset s .col,
    busRead_offset s .rbase, busRead_offset s .rstride, busRead_offset s .c1, busRead_offset s .c2, busRead_offset s .c3,
    busRead_offset s .res, busRead_offset s .mh, busRead_offset s .mw⟩

theorem toNat_ofNat_halfAt {base a b : Nat} (hbase : base ≤ 0x200000) (ha : a < 8) (hb : b < 8) (high : Bool) :
    (BitVec.ofNat 24 (halfAt base a b high)).toNat = halfAt base a b high := by
  have : high.toNat ≤ 1 := high.toNat_le
  rw [BitVec.toNat_ofNat, Nat.mod_eq_of_lt]
  unfold halfAt lowWordAt
  omega

/-- Settles O54: the two offsets of a container are those of its halves. -/
theorem windowsShowTheContainers : Obligations.WindowsShowTheContainers := by
  intro s a b ha hb
  have hgin := fun high => busRead_gin s ha hb (toNat_ofNat_halfAt (base := ginBase) (by decide) ha hb high)
  have hgout := fun high => busRead_gout s ha hb (toNat_ofNat_halfAt (base := goutBase) (by decide) ha hb high)
  exact ⟨hgin false, hgin true, hgout false, hgout true⟩

theorem toNat_matcapr {p : Platform} (h : p.legal) : (BitVec.ofNat 32 p.matcap).toNat = p.matcap := by
  rw [BitVec.toNat_ofNat, Nat.mod_eq_of_lt (h.2.2.trans_lt (by decide))]

/-- Settles O11: the constant registers read the constants, which a legal platform keeps within their fields. -/
theorem constantRegistersRead : Obligations.ConstantRegistersRead :=
  fun s hp => ⟨busRead_offset s .id, busRead_offset s .cmd,
    (congrArg _ (busRead_offset s .caps)).trans (toNat_capsWord hp.2.1),
    (congrArg _ (busRead_offset s .matcapr)).trans (toNat_matcapr hp)⟩

/-! ### Reset -/

/-- The registers that read 0 after reset (R48). -/
def HostReg.zeroAtReset : List HostReg :=
  [.status, .errA, .errB, .cmdCnt, .argh, .argw, .row, .col, .rbase, .rstride, .c1, .c2, .c3, .res, .mh, .mw]

theorem Grid.get_zero (a b : Nat) : Grid.zero.get a b = 0 := by
  rw [Grid.get, Grid.zero, Vector.toArray_replicate, Array.toList_replicate, List.getD_eq_getElem?_getD,
    List.getElem?_replicate]
  split <;> rfl

theorem isReset_afterReset (p : Platform) (m : Memory) (h : List HostEvent) (reads : List Word) (draws : Nat) :
    isReset (State.afterReset p m h reads draws) := by
  have hzero : ∀ r ∈ HostReg.zeroAtReset, (State.afterReset p m h reads draws).busRead r.offset = 0 := by
    simp only [busRead_offset]
    simp [HostReg.zeroAtReset, State.readReg, State.afterReset, StatusRegs.reset, StatusRegs.word, OperandRegs.reset,
      PixelMatrix.reset]
  refine ⟨busRead_offset _ .id, ?_, busRead_offset _ .npart, busRead_offset _ .gw, busRead_offset _ .gh, fun hp => ?_,
    fun n => ?_, rfl, fun a b _ _ => ⟨Grid.get_zero a b, Grid.get_zero a b⟩⟩
  · intro off hoff
    obtain ⟨r, hr, rfl⟩ := List.mem_map.mp (show off ∈ HostReg.zeroAtReset.map HostReg.offset from hoff)
    exact hzero r hr
  · obtain ⟨-, -, hcaps, hmatcap⟩ := constantRegistersRead _ hp
    exact ⟨hcaps, hmatcap⟩
  · exact Vector.getElem_replicate _

/-- Settles O13: a reset event gives the state just out of reset, on the parameters and the raster of the state before it. -/
theorem resetLeavesTheListedValues : Obligations.ResetLeavesTheListedValues :=
  ⟨isReset_afterReset _ _ _ _ _, fun s rest hh =>
    ⟨(s.setHost rest).applyReset, step_of_host hh, isReset_afterReset _ _ _ _ _, rfl⟩⟩

/-! ### Writes -/

theorem alignedOffset_eq_true {off : Offset} (ha : off.toNat % 4 = 0) : alignedOffset off = true := decide_eq_true ha

theorem alignedOffset_eq_false {off : Offset} (ha : off.toNat % 4 ≠ 0) : alignedOffset off = false := decide_eq_false ha

section
variable {s : State} {off : Offset} {rest : List HostEvent}

theorem step_wr {v : Word} (hh : s.host = .wr off v :: rest) (ha : off.toNat % 4 = 0) (hne : off ≠ 0x000004) :
    step s = .next ((s.setHost rest).busWrite off v) := by
  rw [step_of_host hh, State.runEvent, State.hostWrite, if_pos (alignedOffset_eq_true ha)]
  exact if_neg hne

theorem step_wr_misaligned {v : Word} (hh : s.host = .wr off v :: rest) (ha : off.toNat % 4 ≠ 0) :
    step s = .refused .misalignedAccess := by
  rw [step_of_host hh, State.runEvent, State.hostWrite, alignedOffset_eq_false ha]
  rfl

theorem step_rd (hh : s.host = .rd off :: rest) (ha : off.toNat % 4 = 0) :
    step s = .next ((s.setHost rest).logRead ((s.setHost rest).busRead off)) := by
  rw [step_of_host hh, State.runEvent, State.hostRead, if_pos (alignedOffset_eq_true ha)]

theorem step_rd_misaligned (hh : s.host = .rd off :: rest) (ha : off.toNat % 4 ≠ 0) :
    step s = .refused .misalignedAccess := by
  rw [step_of_host hh, State.runEvent, State.hostRead, alignedOffset_eq_false ha]
  rfl

end

theorem busWrite_offset (s : State) (r : HostReg) (v : Word) : s.busWrite r.offset v = s.setOpnd (s.opnd.write r v) := by
  rw [State.busWrite, busTarget_offset]

section
variable {off : Offset} {a b : Nat} {high : Bool} (s : State) (v : Word) (ha : a < 8) (hb : b < 8)
include ha hb

theorem busWrite_gin (h : off.toNat = halfAt ginBase a b high) :
    s.busWrite off v = s.setGin (s.gin.put a b (setContainerWord (s.gin.get a b) high v)) := by
  rw [State.busWrite, busTarget_gin ha hb h]

theorem busWrite_gout (h : off.toNat = halfAt goutBase a b high) : s.busWrite off v = s := by
  rw [State.busWrite, busTarget_gout ha hb h]

end

theorem busWrite_unlisted (s : State) {off : Offset} (v : Word) (h : ¬listed off) : s.busWrite off v = s := by
  rw [State.busWrite, busTarget_unlisted h]

/-- The write of a register, field by field (R21, R28..R33). -/
theorem OperandRegs.write_eq_operandsAfter (o : OperandRegs) (r : HostReg) (v : Word) :
    o.write r v = operandsAfter o r.offset v := by
  cases r <;> rfl

/-- Outside the offsets of R28..R33 no operand register takes the value. -/
theorem operandsAfter_eq_self (o : OperandRegs) {off : Offset} (v : Word) (h : ¬(0x18 ≤ off.toNat ∧ off.toNat ≤ 0x44)) :
    operandsAfter o off v = o := by
  have hne : ∀ x : Offset, 0x18 ≤ x.toNat → x.toNat ≤ 0x44 → off ≠ x := by
    rintro x hlo hhi rfl
    exact h ⟨hlo, hhi⟩
  simp [operandsAfter, hne]

/-- An aligned write outside the operand registers and the `GIN` window stores nothing (R47). -/
theorem busWrite_not_writable (s : State) {off : Offset} (v : Word) (ha : off.toNat % 4 = 0) (hw : ¬writable off) :
    s.busWrite off v = s := by
  obtain ⟨r, rfl⟩ | ⟨a, b, high, hA, hB, h⟩ | ⟨a, b, high, hA, hB, h⟩ | hl := aligned_cases ha
  · rw [busWrite_offset, OperandRegs.write_eq_operandsAfter, operandsAfter_eq_self _ _ fun h => hw (.inl h)]
    rfl
  · exact absurd (.inr (h ▸ halfAt_in_window hA hB ginBase high)) hw
  · exact busWrite_gout s v hA hB h
  · exact busWrite_unlisted s v hl

/-- Settles O10: an unlisted offset has no target, and what is not writable stores nothing. -/
theorem undefinedSpaceReadsZeroAndIgnoresWrites : Obligations.UndefinedSpaceReadsZeroAndIgnoresWrites := by
  intro s off rest
  refine ⟨fun hh ha hl => ?_, fun v hh ha hw hne => ?_, fun v hh ha => step_wr_misaligned hh ha,
    fun hh ha => step_rd_misaligned hh ha, fun n hh => step_of_host hh⟩
  · rw [step_rd hh ha, busRead_unlisted _ hl]
    rfl
  · rw [step_wr hh ha hne, busWrite_not_writable _ v ha hw]
    rfl

/-! ### A write reads back -/

section
variable (c : Container) (low : Nat) {off : Offset} (v : Word)

theorem containerAfter_eq_setContainerWord {high : Bool} (h : off.toNat = low + 4 * high.toNat) :
    containerAfter c low off v = setContainerWord c high v := by
  unfold containerAfter setContainerWord
  cases high
  · exact if_pos h
  · have hne : off.toNat ≠ low := by simp [h]
    exact (if_neg hne).trans (if_pos h)

theorem containerAfter_eq_self (h : ∀ high : Bool, off.toNat ≠ low + 4 * high.toNat) : containerAfter c low off v = c :=
  (if_neg (h false)).trans (if_neg (h true))

theorem containerWord_setContainerWord_same (high : Bool) : containerWord (setContainerWord c high v) high = v := by
  cases high
  · exact BitVec.extractLsb'_append_eq_right
  · exact BitVec.extractLsb'_append_eq_left

theorem containerWord_setContainerWord_other (high : Bool) :
    containerWord (setContainerWord c (!high) v) high = containerWord c high := by
  cases high
  · exact BitVec.extractLsb'_append_eq_right
  · exact BitVec.extractLsb'_append_eq_left

/-- The half that stands at the offset holds the value, the other half of the container is kept (R41, R77). -/
theorem containerWord_containerAfter (high : Bool) :
    containerWord (containerAfter c low off v) high = if low + 4 * high.toNat = off.toNat then v else containerWord c high := by
  by_cases hsame : off.toNat = low + 4 * high.toNat
  · rw [if_pos hsame.symm, containerAfter_eq_setContainerWord c low v hsame, containerWord_setContainerWord_same]
  · rw [if_neg (Ne.symm hsame)]
    by_cases hother : off.toNat = low + 4 * (!high).toNat
    · rw [containerAfter_eq_setContainerWord c low v hother, containerWord_setContainerWord_other]
    · rw [containerAfter_eq_self c low v fun h => ?_]
      obtain rfl | rfl : h = high ∨ h = !high := by cases h <;> cases high <;> simp
      · exact hsame
      · exact hother

end

/-- Different containers of a window stand at different offsets (R41). -/
theorem halfAt_injective {base a b a' b' : Nat} {high high' : Bool} (hb : b < 8) (hb' : b' < 8)
    (h : halfAt base a b high = halfAt base a' b' high') : a = a' ∧ b = b' := by
  obtain ⟨hia, hib, -⟩ := halfAt_index (a := a) hb base high
  obtain ⟨hia', hib', -⟩ := halfAt_index (a := a') hb' base high'
  rw [h] at hia hib
  exact ⟨hia.symm.trans hia', hib.symm.trans hib'⟩

theorem listed_of_writable {off : Offset} (hw : writable off) : listed off :=
  hw.elim (fun h => .inl (h.2.trans (by decide))) fun h => .inr (.inl h)

theorem not_writable_of_gout {off : Offset} {a b : Nat} {high : Bool} (ha : a < 8) (hb : b < 8)
    (h : off.toNat = halfAt goutBase a b high) : ¬writable off := by
  have hwin : goutBase ≤ off.toNat := h ▸ (halfAt_in_window ha hb goutBase high).1
  unfold goutBase at hwin
  unfold writable
  omega

/-- The state after a write of `v` at `off`, when `g` is `GIN` after it. -/
def State.written (s : State) (off : Offset) (v : Word) (g : Grid) : State :=
  (s.setOpnd (operandsAfter s.opnd off v)).setGin g

section
variable (s : State) {off : Offset} (v : Word)

/-- What a write at a read-write offset stores (R21, R28..R33, R41, R77). -/
theorem busWrite_writable (ha : off.toNat % 4 = 0) (hw : writable off) :
    ∃ g, s.busWrite off v = s.written off v g ∧
      ∀ a b, a < 8 → b < 8 → g.get a b = containerAfter (s.gin.get a b) (lowWordAt ginBase a b) off v := by
  obtain ⟨r, rfl⟩ | ⟨a, b, high, hA, hB, h⟩ | ⟨a, b, high, hA, hB, h⟩ | hl := aligned_cases ha
  · refine ⟨s.gin, ?_, fun a b hA hB => ?_⟩
    · rw [busWrite_offset, OperandRegs.write_eq_operandsAfter]
      rfl
    · refine (containerAfter_eq_self _ _ _ fun high => ?_).symm
      have hwin := (halfAt_in_window hA hB ginBase high).1
      exact ((r.offset_le.trans_lt (by decide)).trans_le hwin).ne
  · have hwin := (halfAt_in_window hA hB ginBase high).1
    have hopnd : operandsAfter s.opnd off v = s.opnd :=
      operandsAfter_eq_self _ _ fun hle => absurd (hwin.trans (h ▸ hle.2)) (by decide)
    refine ⟨s.gin.put a b (setContainerWord (s.gin.get a b) high v), ?_, fun a' b' hA' hB' => ?_⟩
    · rw [busWrite_gin s v hA hB h, State.written, hopnd]
      rfl
    · by_cases hab : a' = a ∧ b' = b
      · obtain ⟨rfl, rfl⟩ := hab
        rw [Grid.get_put_same _ _ _ _ hA hB, containerAfter_eq_setContainerWord _ _ _ h]
      · rw [Grid.get_put_ne _ _ _ _ _ _ hB hB' hab, containerAfter_eq_self _ _ _ fun high' hh => hab ?_]
        exact halfAt_injective hB' hB (hh.symm.trans h)
  · exact absurd hw (not_writable_of_gout hA hB h)
  · exact absurd (listed_of_writable hw) hl

/-- A register reads the value written at its offset, and else what it read before. -/
theorem readReg_written (hw : writable off) (g : Grid) (r : HostReg) :
    (s.written off v g).readReg r = if r.offset = off then v else s.readReg r := by
  have hro : ∀ x : Offset, ¬writable x → x ≠ off := fun x hx he => hx (he ▸ hw)
  cases r with
  | npart | gw | gh | argh | argw | row | col | rbase | rstride | c1 | c2 | c3 => exact if_congr eq_comm rfl rfl
  | id | cmd | status | errA | errB | cmdCnt | res | mh | mw | caps | matcapr =>
    exact (if_neg (hro _ (by unfold writable; decide))).symm

/-- A read after a write returns the value at that offset, and else what it returned before. -/
theorem busRead_written (hw : writable off) {g : Grid}
    (hg : ∀ a b, a < 8 → b < 8 → g.get a b = containerAfter (s.gin.get a b) (lowWordAt ginBase a b) off v) {off' : Offset}
    (ha : off'.toNat % 4 = 0) : (s.written off v g).busRead off' = if off' = off then v else s.busRead off' := by
  obtain ⟨r, rfl⟩ | ⟨a, b, high, hA, hB, h⟩ | ⟨a, b, high, hA, hB, h⟩ | hl := aligned_cases ha
  · rw [busRead_offset, busRead_offset, readReg_written s v hw]
  · rw [busRead_gin _ hA hB h, busRead_gin _ hA hB h]
    have hat : lowWordAt ginBase a b + 4 * high.toNat = off.toNat ↔ off' = off := by
      rw [← BitVec.toNat_inj, h, halfAt]
    calc containerWord (g.get a b) high
        = if lowWordAt ginBase a b + 4 * high.toNat = off.toNat then v else containerWord (s.gin.get a b) high := by
          rw [hg a b hA hB, containerWord_containerAfter]
      _ = _ := if_congr hat rfl rfl
  · rw [busRead_gout _ hA hB h, busRead_gout _ hA hB h, if_neg]
    · rfl
    · exact fun he => not_writable_of_gout hA hB h (he ▸ hw)
  · rw [busRead_unlisted _ hl, busRead_unlisted _ hl, if_neg]
    exact fun he => hl (he ▸ listed_of_writable hw)

end

/-- Settles O9: the write replaces the field, or the half of the container, at its offset, and a read at an aligned offset
returns what stands there. -/
theorem writesReadBackAndChangeNothingElse : Obligations.WritesReadBackAndChangeNothingElse := by
  intro s off v rest hh ha hw
  have hne : off ≠ 0x000004 := by
    rintro rfl
    exact absurd hw (by unfold writable; decide)
  obtain ⟨g, ht, hg⟩ := busWrite_writable (s.setHost rest) v ha hw
  refine ⟨_, step_wr hh ha hne, fun off' ha' => ?_, ?_, ?_⟩
  · rw [ht, busRead_written _ v hw hg ha']
    rfl
  · rw [ht]
    rfl
  · rw [ht]
    exact hg

end Sys2Proof.Machine
end

section
/-! O8, O12: a read leaves everything but the list of reads; an admissible event has a next state, and no event touches the
events to come. -/

namespace Sys2Proof.Machine

/-! ### Reads -/

/-- A read does not depend on the events to come. -/
@[simp] theorem State.busRead_setHost (s : State) (l : List HostEvent) (off : Offset) :
    (s.setHost l).busRead off = s.busRead off := by
  unfold State.busRead
  cases busTarget off with
  | reg r => cases r <;> rfl
  | gin | gout | undefined => rfl

/-- Settles O8: the word is logged, and it is the word of the state before the event was taken. -/
theorem readsHaveNoSideEffect : Obligations.ReadsHaveNoSideEffect := by
  intro s off rest hh ha
  rw [step_rd hh ha, State.busRead_setHost]
  rfl

/-! ### Progress: nothing stops an admissible host -/

/-- A command completes or takes an error, and both are next states (R275, R277). -/
theorem exists_next_of_exec (i : Instr) (s : State) : ∃ t, exec i s = .next t := by
  rw [exec_eq_conclude]
  cases body i s with
  | ok u => exact ⟨u.complete, rfl⟩
  | error e => exact ⟨s.raiseError e, rfl⟩

/-- Every word written to `CMD` has a next state, a word that is no command too (R108). -/
theorem exists_next_of_runCommand (s : State) (w : Word) : ∃ t, s.runCommand w = .next t := by
  unfold State.runCommand
  cases decode w with
  | ok i => exact exists_next_of_exec i s
  | error x => exact ⟨_, rfl⟩

theorem exists_next_of_admissible (s : State) {e : HostEvent} (he : e.admissible = true) : ∃ t, s.runEvent e = .next t := by
  cases e with
  | wr off v =>
    have ha : alignedOffset off = true := he
    rw [State.runEvent, State.hostWrite, if_pos ha]
    split
    · exact exists_next_of_runCommand s v
    · exact ⟨_, rfl⟩
  | rd off => exact ⟨_, if_pos he⟩
  | narrow off n => cases he
  | reset | resetDuring | poke => exact ⟨_, rfl⟩

/-! ### The events to come -/

theorem exec_host {i : Instr} {s t : State} (h : exec i s = .next t) : t.host = s.host := by
  obtain ⟨-, -, hhost, -⟩ := eachStoreHasItsWriters i s t h
  exact hhost

@[simp] theorem State.busWrite_host (s : State) (off : Offset) (v : Word) : (s.busWrite off v).host = s.host := by
  obtain ⟨o, g, hw⟩ := s.busWrite_eq_set off v
  rw [hw]
  rfl

/-- No event changes the list of events to come, not even a reset (R310). -/
theorem runEvent_host {s t : State} {e : HostEvent} (h : s.runEvent e = .next t) : t.host = s.host := by
  obtain ⟨off, v, -, -, -, rfl⟩ | ⟨w, i, -, -, hx⟩ | ⟨w, x, -, -, rfl⟩ | ⟨off, -, -, rfl⟩ | ⟨-, rfl⟩ | ⟨w, n, -, rfl⟩ |
    ⟨a, v, -, rfl⟩ := runEvent_cases h
  · exact s.busWrite_host off v
  · exact exec_host hx
  all_goals rfl

/-- Settles O12: with no event the state is held; otherwise the first event is admissible, so it has a next state, and the
events left are among those there were. -/
theorem admissibleHostIsNeverRefused : Obligations.AdmissibleHostIsNeverRefused := by
  intro s hs
  cases hh : s.host with
  | nil => exact ⟨s, by rw [step, hh], hs⟩
  | cons e rest =>
    obtain ⟨he, hrest⟩ : e.admissible = true ∧ ∀ e' ∈ rest, e'.admissible = true := by
      rwa [State.safe, hh, List.forall_mem_cons] at hs
    obtain ⟨t, ht⟩ := exists_next_of_admissible (s.setHost rest) he
    have hhost : t.host = rest := runEvent_host ht
    refine ⟨t, (step_of_host hh).trans ht, ?_⟩
    rwa [State.safe, hhost]

end Sys2Proof.Machine
end

section
/-! O1, O2, O3, O5, O4: the encoding. The word of a format has the fields it was made from, and a word whose reserved bits are 0
is the word of its fields. The opcode chooses the format, so `decode` and `encode` are inverse to each other. -/

namespace Sys2Proof.Machine

open Sys2Proof.Claims Sys2Proof.Laws
open Sys2Proof.Laws.TableRow (mask value)

/-! ### The fields of a format's word -/

section
variable (op : BitVec 8) (px : Fin 4) (prec : Prec) {fmt : Nat}

@[simp] theorem opcodeField_wordZ : opcodeField (wordZ op) = op := BitVec.extractLsb'_append_eq_right

@[simp] theorem opcodeField_wordP : opcodeField (wordP op px) = op := BitVec.extractLsb'_append_eq_right

@[simp] theorem opcodeField_wordPF : opcodeField (wordPF op px fmt) = op := BitVec.extractLsb'_append_eq_right

@[simp] theorem opcodeField_wordT : opcodeField (wordT op prec) = op := BitVec.extractLsb'_append_eq_right

@[simp] theorem formatZ_wordZ (i : Instr) : formatZ (wordZ op) i = .ok i :=
  formatZ_ok_iff.mpr ⟨BitVec.extractLsb'_append_eq_left, rfl⟩

@[simp] theorem formatP_wordP (mk : Fin 4 → Instr) : formatP (wordP op px) mk = .ok (mk px) := by
  have hres : (wordP op px).extractLsb' 10 22 = 0#22 := by
    rw [wordP, BitVec.extractLsb'_append_eq_of_le (by decide)]
    exact BitVec.extractLsb'_append_eq_left
  have hpx : (wordP op px).extractLsb' 8 2 = BitVec.ofNat 2 px.val := by
    rw [wordP, BitVec.extractLsb'_append_eq_of_le (by decide)]
    exact BitVec.extractLsb'_append_eq_right
  exact formatP_ok_iff.mpr ⟨hres, by simp [pxField, hpx]⟩

theorem formatPF_wordPF (hfmt : fmt < 256) (mk : Fin 4 → Nat → Instr) :
    formatPF (wordPF op px fmt) mk = .ok (mk px fmt) := by
  have hhigh : (wordPF op px fmt).extractLsb' 24 8 = 0#8 := by
    rw [wordPF]
    iterate 3 rw [BitVec.extractLsb'_append_eq_of_le (by decide)]
    exact BitVec.extractLsb'_append_eq_left
  have hfield : (wordPF op px fmt).extractLsb' 16 8 = BitVec.ofNat 8 fmt := by
    rw [wordPF]
    iterate 3 rw [BitVec.extractLsb'_append_eq_of_le (by decide)]
    exact BitVec.extractLsb'_append_eq_right
  have hmid : (wordPF op px fmt).extractLsb' 10 6 = 0#6 := by
    rw [wordPF]
    iterate 2 rw [BitVec.extractLsb'_append_eq_of_le (by decide)]
    exact BitVec.extractLsb'_append_eq_right
  have hpx : (wordPF op px fmt).extractLsb' 8 2 = BitVec.ofNat 2 px.val := by
    rw [wordPF, BitVec.extractLsb'_append_eq_of_le (by decide)]
    exact BitVec.extractLsb'_append_eq_right
  exact formatPF_ok_iff.mpr ⟨⟨hhigh, hmid⟩, by simp [pxField, fmtField, hpx, hfield, Nat.mod_eq_of_lt hfmt]⟩

@[simp] theorem formatT_wordT (mk : Prec → Instr) : formatT (wordT op prec) mk = .ok (mk prec) := by
  have hres : (wordT op prec).extractLsb' 9 23 = 0#23 := by
    rw [wordT, BitVec.extractLsb'_append_eq_of_le (by decide)]
    exact BitVec.extractLsb'_append_eq_left
  have hprec : (wordT op prec).extractLsb' 8 1 = prec.bit := by
    rw [wordT, BitVec.extractLsb'_append_eq_of_le (by decide)]
    exact BitVec.extractLsb'_append_eq_right
  exact formatT_ok_iff.mpr ⟨hres, by cases prec <;> simp [precField, hprec, Prec.bit]⟩

end

/-- Settles O1: the opcode of an encoding is its command's, so the decoder reads the word in the format it was made in. -/
theorem decodeOfEncodeIsTheCommand : Obligations.DecodeOfEncodeIsTheCommand := by
  intro i hi
  cases i with
  | nop | errclr | mnew | mfrr | mtor | gmov => simp [encode, decode]
  | pxr px | pxg px | pxb px | pxy px | pxcb px | pxcr px | mget px | mset px => simp [encode, decode]
  | pxnew px fmt =>
    have hfmt : fmt < 256 := of_decide_eq_true hi
    simp [encode, decode, formatPF_wordPF, hfmt]
  | dcta prec | idcta prec | dctb prec | idctb prec => simp [encode, decode]

/-! ### A word is the word of its fields -/

theorem ofNat_pxField (w : Word) : BitVec.ofNat 2 (pxField w).val = w.extractLsb' 8 2 := BitVec.ofNat_toNat ..

theorem ofNat_fmtField (w : Word) : BitVec.ofNat 8 (fmtField w) = w.extractLsb' 16 8 := BitVec.ofNat_toNat ..

theorem fmtField_lt (w : Word) : fmtField w < 256 := BitVec.isLt _

theorem bit_precField (w : Word) : (precField w).bit = w.extractLsb' 8 1 := by
  obtain h | h := BitVec.eq_zero_or_eq_one (w.extractLsb' 8 1) <;> simp [precField, h, Prec.bit]

section
variable {w : Word} {op : BitVec 8} (hop : opcodeField w = op)
include hop

theorem wordZ_of_fields (hres : w.extractLsb' 8 24 = 0#24) : wordZ op = w := by
  rw [wordZ, ← hres, ← hop, opcodeField, BitVec.extractLsb'_append_extractLsb'_eq_extractLsb' (rfl : 8 = 0 + 8)]
  exact BitVec.extractLsb'_eq_self

theorem wordP_of_fields (hres : w.extractLsb' 10 22 = 0#22) : wordP op (pxField w) = w := by
  rw [wordP, ← hres, ofNat_pxField, ← hop, opcodeField,
    BitVec.extractLsb'_append_extractLsb'_eq_extractLsb' (rfl : 10 = 8 + 2),
    BitVec.extractLsb'_append_extractLsb'_eq_extractLsb' (rfl : 8 = 0 + 8)]
  exact BitVec.extractLsb'_eq_self

theorem wordPF_of_fields (hres : w.extractLsb' 24 8 = 0#8 ∧ w.extractLsb' 10 6 = 0#6) :
    wordPF op (pxField w) (fmtField w) = w := by
  obtain ⟨hhigh, hmid⟩ := hres
  rw [wordPF, ← hhigh, ofNat_fmtField, ← hmid, ofNat_pxField, ← hop, opcodeField,
    BitVec.extractLsb'_append_extractLsb'_eq_extractLsb' (rfl : 24 = 16 + 8),
    BitVec.extractLsb'_append_extractLsb'_eq_extractLsb' (rfl : 16 = 10 + 6),
    BitVec.extractLsb'_append_extractLsb'_eq_extractLsb' (rfl : 10 = 8 + 2),
    BitVec.extractLsb'_append_extractLsb'_eq_extractLsb' (rfl : 8 = 0 + 8)]
  exact BitVec.extractLsb'_eq_self

theorem wordT_of_fields (hres : w.extractLsb' 9 23 = 0#23) : wordT op (precField w) = w := by
  rw [wordT, ← hres, bit_precField, ← hop, opcodeField,
    BitVec.extractLsb'_append_extractLsb'_eq_extractLsb' (rfl : 9 = 8 + 1),
    BitVec.extractLsb'_append_extractLsb'_eq_extractLsb' (rfl : 8 = 0 + 8)]
  exact BitVec.extractLsb'_eq_self

end

/-- Settles O2: the opcode chose the format, and the format checked that its reserved bits are 0. -/
theorem encodeOfDecodeIsTheWord : Obligations.EncodeOfDecodeIsTheWord := by
  intro w i h
  unfold decode at h
  split at h
  case h_1 hop | h_2 hop | h_10 hop | h_13 hop | h_14 hop | h_19 hop =>
    obtain ⟨hres, rfl⟩ := formatZ_ok_iff.mp h
    exact ⟨rfl, wordZ_of_fields hop hres⟩
  case h_4 hop | h_5 hop | h_6 hop | h_7 hop | h_8 hop | h_9 hop | h_11 hop | h_12 hop =>
    obtain ⟨hres, rfl⟩ := formatP_ok_iff.mp h
    exact ⟨rfl, wordP_of_fields hop hres⟩
  case h_3 hop =>
    obtain ⟨hres, rfl⟩ := formatPF_ok_iff.mp h
    exact ⟨decide_eq_true (fmtField_lt w), wordPF_of_fields hop hres⟩
  case h_15 hop | h_16 hop | h_17 hop | h_18 hop =>
    obtain ⟨hres, rfl⟩ := formatT_ok_iff.mp h
    exact ⟨rfl, wordT_of_fields hop hres⟩
  case h_20 => cases h

/-! ### The rows of the opcode table -/

section
variable {w m v : Word} {i : Instr}

/-- A field on which the mask is all ones is the match value's. -/
theorem extractLsb'_of_masked {k n : Nat} (hw : w &&& m = v) (hm : m.extractLsb' k n = BitVec.allOnes n) :
    w.extractLsb' k n = v.extractLsb' k n := by
  rw [← hw, BitVec.extractLsb'_and, hm, BitVec.and_allOnes]

/-- Every encoding lies in its command's row: the laws of `TableRow` for all commands at once. -/
theorem encode_in_row : ∀ i : Instr, TableRow.Statement i
  | .nop => TableRow.nop
  | .errclr => TableRow.errclr
  | .pxnew px fmt => TableRow.pxnew px fmt
  | .pxr px => TableRow.pxr px
  | .pxg px => TableRow.pxg px
  | .pxb px => TableRow.pxb px
  | .pxy px => TableRow.pxy px
  | .pxcb px => TableRow.pxcb px
  | .pxcr px => TableRow.pxcr px
  | .mnew => TableRow.mnew
  | .mget px => TableRow.mget px
  | .mset px => TableRow.mset px
  | .mfrr => TableRow.mfrr
  | .mtor => TableRow.mtor
  | .dcta prec => TableRow.dcta prec
  | .idcta prec => TableRow.idcta prec
  | .dctb prec => TableRow.dctb prec
  | .idctb prec => TableRow.idctb prec
  | .gmov => TableRow.gmov

/-- A command of each row, in the order of the table. -/
def rowCommands : List Instr :=
  [.nop, .errclr, .pxnew 0 0, .pxr 0, .pxg 0, .pxb 0, .pxy 0, .pxcb 0, .pxcr 0, .mnew, .mget 0, .mset 0, .mfrr, .mtor,
    .dcta .s, .idcta .s, .dctb .s, .idctb .s, .gmov]

theorem opcodeRows_eq_map : opcodeRows = rowCommands.map fun i => (mask i, value i) := rfl

theorem row_mem_opcodeRows (i : Instr) : (mask i, value i) ∈ opcodeRows := by
  cases i <;> simp [mask, value, opcodeRows]

theorem mask_opcodeField (i : Instr) : (mask i).extractLsb' 0 8 = BitVec.allOnes 8 := by
  cases i <;> simp only [mask] <;> rfl

theorem opcodeField_of_row (hw : w &&& mask i = value i) : opcodeField w = opcodeField (value i) :=
  extractLsb'_of_masked hw (mask_opcodeField i)

/-- The mask of a row covers the opcode and the reserved bits of its format, so a word of the row decodes. -/
theorem decodes_of_row (hw : w &&& mask i = value i) : ∃ j, decode w = .ok j := by
  simp only [decode, opcodeField_of_row hw]
  cases i <;> simp only [mask, value] at hw ⊢
  case nop | errclr | mnew | mfrr | mtor | gmov => exact ⟨_, formatZ_ok_iff.mpr ⟨extractLsb'_of_masked hw rfl, rfl⟩⟩
  case pxr | pxg | pxb | pxy | pxcb | pxcr | mget | mset =>
    exact ⟨_, formatP_ok_iff.mpr ⟨extractLsb'_of_masked hw rfl, rfl⟩⟩
  case pxnew =>
    exact ⟨_, formatPF_ok_iff.mpr ⟨⟨extractLsb'_of_masked hw rfl, extractLsb'_of_masked hw rfl⟩, rfl⟩⟩
  case dcta | idcta | dctb | idctb => exact ⟨_, formatT_ok_iff.mpr ⟨extractLsb'_of_masked hw rfl, rfl⟩⟩

theorem decodes_iff_row : (∃ i, decode w = .ok i) ↔ ∃ r ∈ opcodeRows, w &&& r.1 = r.2 := by
  constructor
  · rintro ⟨i, hi⟩
    obtain ⟨-, rfl⟩ := encodeOfDecodeIsTheWord w i hi
    exact ⟨_, row_mem_opcodeRows i, encode_in_row i⟩
  · rintro ⟨r, hr, hw⟩
    rw [opcodeRows_eq_map] at hr
    obtain ⟨i, -, rfl⟩ := List.mem_map.mp hr
    exact decodes_of_row hw

end

/-- The opcode tells the rows apart. -/
theorem rowCommands_eq_of_opcode : ∀ i ∈ rowCommands, ∀ j ∈ rowCommands,
    opcodeField (value i) = opcodeField (value j) → i = j := by decide

/-- Settles O3: every mask covers the opcode, and no two rows have the same. -/
theorem decoderAcceptsExactlyTheOpcodeTable : Obligations.DecoderAcceptsExactlyTheOpcodeTable := by
  intro w
  refine ⟨decodes_iff_row, ?_⟩
  simp only [opcodeRows_eq_map, List.mem_map]
  rintro _ ⟨i, hi, rfl⟩ _ ⟨j, hj, rfl⟩ hwi hwj
  have hop : opcodeField (value i) = opcodeField (value j) :=
    (opcodeField_of_row hwi).symm.trans (opcodeField_of_row hwj)
  rw [rowCommands_eq_of_opcode i hi j hj hop]

/-! ### Illegal words -/

/-- A word written to `CMD` is a command word (R23). -/
theorem step_cmd {s : State} {w : Word} {rest : List HostEvent} (hh : s.host = .wr 0x000004 w :: rest) :
    step s = (s.setHost rest).runCommand w := step_of_host hh

/-- Settles O5: a word of no row does not decode, and a write to `CMD` then takes the error. -/
theorem illegalWordRaisesIllegalCommand : Obligations.IllegalWordRaisesIllegalCommand := by
  intro s w rest hh hrows
  rw [step_cmd hh, State.runCommand]
  cases hd : decode w with
  | error x => rfl
  | ok i =>
    obtain ⟨r, hr, hw⟩ := decodes_iff_row.mp ⟨i, hd⟩
    exact absurd hw (hrows r hr)

/-! ### The words the spec prints -/

/-- Settles O4: each word is the encoding of its command, so O1 applies. -/
theorem printedWordsDecode : Obligations.PrintedWordsDecode := by
  have h := decodeOfEncodeIsTheCommand
  exact ⟨h .nop rfl, h .errclr rfl, h (.pxnew 2 1) rfl, h (.pxnew 3 255) rfl, h (.pxr 1) rfl, h (.pxy 3) rfl, h .mnew rfl,
    h (.mget 1) rfl, h (.mset 2) rfl, h .mfrr rfl, h .mtor rfl, h (.dcta .s) rfl, h (.idcta .d) rfl, h (.dctb .d) rfl,
    h (.idctb .d) rfl, h .gmov rfl⟩

end Sys2Proof.Machine
end

section
/-! O26, O25: the accessors. An accessor writes one channel of a pixel register to `RES`, and the encoding of a derived channel
has the value of its formula, since every sum is a value of the format and the model's constants are the literals of R131,
each rounded once. -/

namespace Sys2Proof

/-! ### Result words -/

theorem zero_ofFormat (F : Prec) (s : Bool) : (FVal.fin s 0).ofFormat F :=
  ⟨Nat.two_pow_pos _, 0, 0, Nat.two_pow_pos _, rfl⟩

/-- A sum is a value of the format whatever is added: finite values cancel or are rounded (R12). -/
theorem fadd_ofFormat (F : Prec) (x y : FVal) : (fadd F x y).ofFormat F := by
  cases x with
  | nan => rw [fadd_nan_left]; trivial
  | inf s =>
    cases y with
    | nan | fin => trivial
    | inf t => simp only [fadd]; split <;> trivial
  | fin s m =>
    cases y with
    | nan | inf => trivial
    | fin t n =>
      simp only [fadd]
      split_ifs
      case pos => exact rn_ofFormat ..
      case pos => exact zero_ofFormat F false
      case pos | neg => exact rn_ofFormat ..

theorem fsub_ofFormat (F : Prec) (x y : FVal) : (fsub F x y).ofFormat F := fadd_ofFormat F x y.neg

/-- A result register holds the value that was encoded in it (R34). -/
theorem valS_bitsS (n : Nat) {x : FVal} (hx : x.ofFormat .s) : valS (bitsS n x) = x := by
  obtain ⟨hlt, hval⟩ := val_bits .s n x hx
  rwa [valS, bitsS, BitVec.toNat_ofNat, Nat.mod_eq_of_lt (show _ < 2 ^ 32 from hlt)]

end Sys2Proof

namespace Sys2Proof.Machine

open Sys2Proof.Claims

/-! ### The constants of R131 and the formulas of R133 -/

/-- Each of the constants is a literal of R131 rounded to format `S`; that of `-K(37.945)` has the sign bit set (R133). -/
theorem constants_eq_literals :
    valS 0x428379DB = lit 65738 ∧ valS 0x43010E98 = lit 129057 ∧ valS 0x41C08312 = lit 24064 ∧
    valS 0xC217C7AE = (lit 37945).neg ∧ valS 0x4294FCEE = lit 74494 ∧ valS 0x42E0E0C5 = lit 112439 ∧
    valS 0x42BC4ED9 = lit 94154 ∧ valS 0x419247AE = lit 18285 ∧ valS 0x41800000 = lit 16000 ∧
    valS 0x43000000 = lit 128000 ∧ valS 0x43800000 = lit 256000 ∧ valS 0x43950A7F = lit 298082 ∧
    valS 0x43CC4AA0 = lit 408583 ∧ valS 0x42C894FE = lit 100291 ∧ valS 0x43501EB8 = lit 208120 ∧
    valS 0x44011A5E = lit 516412 ∧ valS 0x435EEBC7 = lit 222921 ∧ valS 0x43079375 = lit 135576 ∧
    valS 0x438A6B02 = lit 276836 := by decide +kernel

theorem deriveY_eq_lumaY (r g b : FVal) : deriveY r g b = lumaY r g b := by
  simp only [deriveY, lumaY, constants_eq_literals]

theorem deriveCb_eq_lumaCb (r g b : FVal) : deriveCb r g b = lumaCb r g b := by
  simp only [deriveCb, lumaCb, constants_eq_literals]

theorem deriveCr_eq_lumaCr (r g b : FVal) : deriveCr r g b = lumaCr r g b := by
  simp only [deriveCr, lumaCr, constants_eq_literals]

theorem deriveR_eq_addR (y cr : FVal) : deriveR y cr = addR y cr := by
  simp only [deriveR, addR, constants_eq_literals]

theorem deriveG_eq_addG (y cb cr : FVal) : deriveG y cb cr = addG y cb cr := by
  simp only [deriveG, addG, constants_eq_literals]

theorem deriveB_eq_addB (y cb : FVal) : deriveB y cb = addB y cb := by
  simp only [deriveB, addB, constants_eq_literals]

/-! ### The channels of a Pixel -/

section
variable {p : Pixel} (n : Nat)

/-- The raw channels of an Additive Pixel are its components (R132). -/
theorem channelBits_raw_additive (htag : p.tag = .additive) :
    p.channelBits n .r = p.c1 ∧ p.channelBits n .g = p.c2 ∧ p.channelBits n .b = p.c3 := by
  simp only [Pixel.channelBits, htag, and_self]

/-- The raw channels of a LumaChroma Pixel are its components (R132). -/
theorem channelBits_raw_lumaChroma (htag : p.tag = .lumaChroma) :
    p.channelBits n .y = p.c1 ∧ p.channelBits n .cb = p.c2 ∧ p.channelBits n .cr = p.c3 := by
  simp only [Pixel.channelBits, htag, and_self]

/-- The derived channels of an Additive Pixel (R133): each ends in a sum, so its encoding has its value. -/
theorem valS_channelBits_additive (htag : p.tag = .additive) :
    valS (p.channelBits n .y) = lumaY (valS p.c1) (valS p.c2) (valS p.c3) ∧
    valS (p.channelBits n .cb) = lumaCb (valS p.c1) (valS p.c2) (valS p.c3) ∧
    valS (p.channelBits n .cr) = lumaCr (valS p.c1) (valS p.c2) (valS p.c3) := by
  simp only [Pixel.channelBits, htag]
  exact ⟨(valS_bitsS n (fadd_ofFormat ..)).trans (deriveY_eq_lumaY ..),
    (valS_bitsS n (fadd_ofFormat ..)).trans (deriveCb_eq_lumaCb ..),
    (valS_bitsS n (fadd_ofFormat ..)).trans (deriveCr_eq_lumaCr ..)⟩

/-- The derived channels of a LumaChroma Pixel (R133): each ends in a sum or a difference. -/
theorem valS_channelBits_lumaChroma (htag : p.tag = .lumaChroma) :
    valS (p.channelBits n .r) = addR (valS p.c1) (valS p.c3) ∧
    valS (p.channelBits n .g) = addG (valS p.c1) (valS p.c2) (valS p.c3) ∧
    valS (p.channelBits n .b) = addB (valS p.c1) (valS p.c2) := by
  simp only [Pixel.channelBits, htag]
  exact ⟨(valS_bitsS n (fsub_ofFormat ..)).trans (deriveR_eq_addR ..),
    (valS_bitsS n (fadd_ofFormat ..)).trans (deriveG_eq_addG ..),
    (valS_bitsS n (fsub_ofFormat ..)).trans (deriveB_eq_addB ..)⟩

end

/-! ### The accessor commands -/

/-- The command that returns a channel (R135..R140). -/
def Channel.command (ch : Channel) (px : Fin 4) : Instr :=
  match ch with
  | .r => .pxr px
  | .g => .pxg px
  | .b => .pxb px
  | .y => .pxy px
  | .cb => .pxcb px
  | .cr => .pxcr px

/-- An accessor completes with the channel in `RES`; it uses one draw and changes nothing else but the flags (R141). -/
theorem exec_command (s : State) (ch : Channel) (px : Fin 4) :
    exec (ch.command px) s =
      .next { s with res := (s.px.get px).channelBits s.draws ch, stat := done s.stat, draws := s.draws + 1 } := by
  cases ch <;> rfl

section
variable {s : State} {px : Fin 4}

theorem exec_command_gives_bits (ch : Channel) {w : Word} (hw : (s.px.get px).channelBits s.draws ch = w) :
    ∃ d, exec (ch.command px) s = .next { s with res := w, stat := done s.stat, draws := d } :=
  ⟨_, hw ▸ exec_command s ch px⟩

theorem exec_command_gives_value (ch : Channel) {x : FVal} (hx : valS ((s.px.get px).channelBits s.draws ch) = x) :
    ∃ w d, exec (ch.command px) s = .next { s with res := w, stat := done s.stat, draws := d } ∧ valS w = x :=
  ⟨_, _, exec_command s ch px, hx⟩

end

/-- Settles O26: the accessor returns the channel's encoding, which has the value of the formula the tag selects. -/
theorem derivedChannelsFollowTheFormulas : Obligations.DerivedChannelsFollowTheFormulas := by
  intro s px
  constructor
  · intro htag
    obtain ⟨hy, hcb, hcr⟩ := valS_channelBits_additive s.draws htag
    exact ⟨exec_command_gives_value .y hy, exec_command_gives_value .cb hcb, exec_command_gives_value .cr hcr⟩
  · intro htag
    obtain ⟨hr, hg, hb⟩ := valS_channelBits_lumaChroma s.draws htag
    exact ⟨exec_command_gives_value .r hr, exec_command_gives_value .g hg, exec_command_gives_value .b hb⟩

/-- Settles O25: the accessor returns the channel's encoding, which is the component the tag selects. -/
theorem rawChannelsAreReturnedBitForBit : Obligations.RawChannelsAreReturnedBitForBit := by
  intro s px
  constructor
  · intro htag
    obtain ⟨hr, hg, hb⟩ := channelBits_raw_additive s.draws htag
    exact ⟨exec_command_gives_bits .r hr, exec_command_gives_bits .g hg, exec_command_gives_bits .b hb⟩
  · intro htag
    obtain ⟨hy, hcb, hcr⟩ := channelBits_raw_lumaChroma s.draws htag
    exact ⟨exec_command_gives_bits .y hy, exec_command_gives_bits .cb hcb, exec_command_gives_bits .cr hcr⟩

end Sys2Proof.Machine
end

section
/-! O24: `PXNEW` writes one pixel register, or raises when `fmt` is no tag. -/

namespace Sys2Proof.Machine

open Sys2Proof.Claims

theorem tagOf_of_le_one {fmt : Nat} (h : fmt ≤ 1) : tagOf fmt = .ok (if fmt = 0 then .additive else .lumaChroma) := by
  obtain rfl | rfl := Nat.le_one_iff_eq_zero_or_eq_one.mp h <;> rfl

theorem tagOf_of_two_le {fmt : Nat} (h : 2 ≤ fmt) : tagOf fmt = .error (.invalidFormat fmt) := by
  obtain ⟨n, rfl⟩ := Nat.exists_eq_add_of_le' h
  rfl

/-- A write to a pixel register changes that register only (R37). -/
theorem State.px_get_setPx (s : State) (m n : Fin 4) (p : Pixel) :
    (s.setPx m p).px.get n = if n = m then p else s.px.get n := by
  simp only [State.setPx_px, Vector.get_eq_getElem, Vector.getElem_set, Fin.val_inj, eq_comm]

/-- Settles O24: the tag `fmt` selects decides between the write and the error. -/
theorem pxnewConstructsAPixel : Obligations.PxnewConstructsAPixel := by
  intro s px fmt
  constructor
  · intro hfmt
    refine ⟨(s.setPx px _).complete, ?_, rfl, fun n => s.px_get_setPx px n _⟩
    rw [exec_eq_conclude, body, tagOf_of_le_one hfmt]
    rfl
  · intro hfmt _
    rw [exec_eq_conclude, body, tagOf_of_two_le hfmt]
    rfl

end Sys2Proof.Machine
end

section
/-! What the Matrix commands share: a command's outcome from its body, when each check of R163, R162 and R73 passes and which
error it raises else. -/

namespace Sys2Proof.Machine

open Sys2Proof.Claims

/-! ### The outcome of a command -/

section
variable {i : Instr} {s : State}

theorem exec_of_body_ok {u : State} (h : body i s = .ok u) : exec i s = .next u.complete := by
  rw [exec_eq_conclude, h]
  rfl

theorem exec_of_body_error {e : CommandError} (h : body i s = .error e) : exec i s = raises s e.code e.infoA e.infoB := by
  rw [exec_eq_conclude, h]
  rfl

end

/-- The second information word of a `BusFault` (R272). -/
theorem infoB_busFault (a : Nat) (dir : Dir) : (CommandError.busFault a dir).infoB = busInfo (dir = .wr) a := by
  cases dir with
  | rd => simp only [CommandError.infoB, busInfo]; split <;> rfl
  | wr => simp only [CommandError.infoB, busInfo]; split <;> rfl

/-! ### The capacity check and the bounds check -/

section
variable {s : State}

theorem checkCapacity_eq_ok_iff : checkCapacity s.plat s.opnd = .ok () ↔ fits s := by
  rw [checkCapacity_ok_iff, fitsMatrix, Bool.and_eq_true, Bool.and_eq_true]
  simp only [decide_eq_true_eq, and_assoc]
  rfl

theorem checkCapacity_eq_error (h : ¬fits s) : checkCapacity s.plat s.opnd = .error (.paramRange 4 0) :=
  if_neg fun hfit => h (checkCapacity_eq_ok_iff.mp ((checkCapacity_ok_iff _ _).mpr hfit))

theorem checkInside_eq_error (h : s.mat.height.toNat ≤ s.opnd.row.toNat ∨ s.mat.width.toNat ≤ s.opnd.col.toNat) :
    checkInside s.mat s.opnd = .error (.indexOutOfRange s.opnd.row s.opnd.col) :=
  checkInside_outside (by omega)

end

/-! ### The footprint in access order -/

/-- The model's points are those of R78, in its order. -/
theorem rasterPoints_eq_points (s : State) :
    rasterPoints s.opnd.argh.toNat s.opnd.argw.toNat = (points s).map fun p => ⟨p.1, p.2.1, p.2.2⟩ := by
  unfold rasterPoints rasterPixels points
  split
  · next hw => simp [hw]
  · simp [List.flatMap_assoc, List.flatMap_map, List.map_flatMap, List.range_succ]

theorem region_eq_map (s : State) : region s = (points s).map fun p => addr s p.1 p.2.1 p.2.2 := by
  simp [region, points, List.map_flatMap, Function.comp_def]

theorem footprint_eq_region (s : State) : footprint s.opnd = region s := by
  rw [footprint, rasterPoints_eq_points, region_eq_map, List.map_map]
  rfl

theorem mem_points {s : State} {r c b : Nat} :
    (r, c, b) ∈ points s ↔ r < s.opnd.argh.toNat ∧ c < s.opnd.argw.toNat ∧ b < 3 := by
  simp [points]

theorem accessible_iff {s : State} {dir : Dir} {a : Nat} : accessible s.plat dir a = true ↔ mayAccess s dir a := by
  rw [accessible, Bool.and_eq_true, decide_eq_true_eq, mayAccess]

section
variable {s : State} {dir : Dir}

theorem checkFootprint_eq_ok (h : ∀ a ∈ region s, mayAccess s dir a) : checkFootprint s.plat dir s.opnd = .ok () := by
  rw [checkFootprint_ok_iff, footprint_eq_region]
  exact fun a ha => accessible_iff.mpr (h a ha)

/-- The check answers with the first byte that fails (R73). -/
theorem checkFootprint_eq_error {a : Nat} (h : firstFailing s dir a) :
    checkFootprint s.plat dir s.opnd = .error (.busFault a dir) := by
  obtain ⟨before, after, hsplit, hbefore, ha⟩ := h
  have hfirst : firstBadByte s.plat dir s.opnd = some a := by
    rw [firstBadByte, footprint_eq_region, List.find?_eq_some_iff_append]
    refine ⟨by rw [Bool.not_eq_true', ← Bool.not_eq_true, accessible_iff]; exact ha, before, after, hsplit, fun x hx => ?_⟩
    rw [accessible_iff.mpr (hbefore x hx), Bool.not_true, Bool.not_false]
  rw [checkFootprint, hfirst]

end

end Sys2Proof.Machine
end

section
/-! O29, O31, O32, O27, O28: `MSET`, `MFRR`, `MNEW`, `MGET`. Cells of different places stand under different indices, so a list of
stored cells leaves in each place the Pixel stored there. -/

namespace Sys2Proof.Machine

open Sys2Proof.Claims

/-! ### The cells of a Matrix -/

/-- A Matrix just built has Black cells only (R164). -/
theorem PixelMatrix.cell_new (h w r c : Nat) : (PixelMatrix.new h w).cell r c = .black := rfl

section
variable {p : Platform} {m : PixelMatrix}

/-- In a row-major order cells of different places have different indices (R38). -/
theorem linearIndex_inj {w r c r' c' : Nat} (hc : c < w) (hc' : c' < w) :
    linearIndex w r' c' = linearIndex w r c ↔ r' = r ∧ c' = c := by
  constructor
  · intro h
    have hr : r' = r := by
      have := congrArg (· / w) h
      simpa [linearIndex, Nat.mul_comm _ w, Nat.mul_add_div (Nat.zero_lt_of_lt hc), Nat.div_eq_of_lt hc, Nat.div_eq_of_lt hc']
        using this
    subst hr
    exact ⟨rfl, Nat.add_left_cancel h⟩
  · rintro ⟨rfl, rfl⟩
    rfl

/-- Storing a cell changes that cell and no other (R38, R166). -/
theorem PixelMatrix.cell_setCell (hm : m.Legal p) {r c r' c' : Nat} (hc : c < m.width.toNat) (hc' : c' < m.width.toNat)
    (x : Pixel) : (m.setCell r c x).cell r' c' = if r' = r ∧ c' = c then x else m.cell r' c' := by
  split
  · next h =>
    obtain ⟨rfl, rfl⟩ := h
    exact sparseGet_set_same _ _ _ _ _ hm.cells
  · next h => exact sparseGet_set_ne _ _ _ _ _ (mt (linearIndex_inj hc hc').mp h)

/-- After cells inside the bounds are stored, each with the Pixel of its place, a cell holds its Pixel when it is one of them and
is as before when it is not. -/
theorem PixelMatrix.cell_foldl_setCell (f : Nat × Nat → Pixel) (l : List (Nat × Nat)) (hm : m.Legal p)
    (hl : ∀ rc ∈ l, rc.1 < m.height.toNat ∧ rc.2 < m.width.toNat) {r c : Nat} (hc : c < m.width.toNat) :
    (l.foldl (fun x rc => x.setCell rc.1 rc.2 (f rc)) m).cell r c = if (r, c) ∈ l then f (r, c) else m.cell r c := by
  induction l generalizing m with
  | nil => rfl
  | cons rc l ih =>
    obtain ⟨hrow, hcol⟩ := hl rc List.mem_cons_self
    have hrest := ih (setCell_legal hm hrow hcol (f rc)) (fun x hx => hl x (List.mem_cons_of_mem _ hx)) hc
    rw [List.foldl_cons, hrest, cell_setCell hm hcol hc]
    by_cases hmem : (r, c) ∈ l
    · rw [if_pos hmem, if_pos (List.mem_cons_of_mem _ hmem)]
    · rw [if_neg hmem]
      by_cases heq : (r, c) = rc
      · subst heq
        rw [if_pos ⟨rfl, rfl⟩, if_pos List.mem_cons_self]
      · rw [if_neg fun h => heq (Prod.ext h.1 h.2), if_neg (by simp [heq, hmem])]

theorem PixelMatrix.foldl_setCell_size (f : Nat × Nat → Pixel) (l : List (Nat × Nat)) (m : PixelMatrix) :
    (l.foldl (fun x rc => x.setCell rc.1 rc.2 (f rc)) m).height = m.height ∧
      (l.foldl (fun x rc => x.setCell rc.1 rc.2 (f rc)) m).width = m.width := by
  induction l generalizing m with
  | nil => exact ⟨rfl, rfl⟩
  | cons rc l ih => exact ih _

end

/-! ### The Matrix of a raster -/

section
variable {s : State}

theorem matrixFromRaster_size (h : fits s) :
    (matrixFromRaster s.raster s.opnd).height.toNat = padded s.opnd.argh.toNat ∧
      (matrixFromRaster s.raster s.opnd).width.toNat = padded s.opnd.argw.toNat := by
  obtain ⟨hh, hw⟩ := PixelMatrix.foldl_setCell_size (fun rc => rasterPixel s.raster s.opnd rc.1 rc.2)
    (rasterPixels s.opnd.argh.toNat s.opnd.argw.toNat) (PixelMatrix.new s.opnd.argh.toNat s.opnd.argw.toNat)
  obtain ⟨hh', hw', -⟩ := PixelMatrix.new_size (checkCapacity_eq_ok_iff.mpr h)
  exact ⟨(congrArg BitVec.toNat hh).trans hh', (congrArg BitVec.toNat hw).trans hw'⟩

/-- A cell is the raster's pixel at its place, or Black outside the raster (R167). -/
theorem cell_matrixFromRaster (h : fits s) {r c : Nat} (hc : c < padded s.opnd.argw.toNat) :
    (matrixFromRaster s.raster s.opnd).cell r c =
      if r < s.opnd.argh.toNat ∧ c < s.opnd.argw.toNat then rasterPixel s.raster s.opnd r c else .black := by
  have hok := checkCapacity_eq_ok_iff.mpr h
  obtain ⟨hh, hw, -⟩ := PixelMatrix.new_size hok
  have hcell := PixelMatrix.cell_foldl_setCell (fun rc => rasterPixel s.raster s.opnd rc.1 rc.2)
    (rasterPixels s.opnd.argh.toNat s.opnd.argw.toNat) (PixelMatrix.new_legal hok) (r := r) (c := c)
  simp only [mem_rasterPixels, PixelMatrix.cell_new, hh, hw] at hcell
  refine hcell (fun rc hrc => ?_) hc
  obtain ⟨hr, hc⟩ := mem_rasterPixels.mp hrc
  exact ⟨hr.trans_le (le_pad8 _), hc.trans_le (le_pad8 _)⟩

end

/-! ### The bytes of a raster -/

/-- The format holds a number of at most `fracBits + 1` significant bits that is below the overflow bound (R12). -/
theorem holds_mul_two_pow (F : Prec) {k e : Nat} (hk : k < 2 ^ (F.fracBits + 1)) (he : F.fracBits + 1 + e ≤ F.topExp) :
    F.holds (k * 2 ^ e) := by
  refine ⟨?_, k, e, hk, rfl⟩
  calc k * 2 ^ e < 2 ^ (F.fracBits + 1) * 2 ^ e := Nat.mul_lt_mul_of_pos_right hk (Nat.two_pow_pos _)
    _ = 2 ^ (F.fracBits + 1 + e) := (pow_add _ _ _).symm
    _ ≤ 2 ^ F.topExp := Nat.pow_le_pow_right two_pos he

/-- A byte is converted exactly (R12): it has at most 8 significant bits. -/
theorem valS_u8tof (b : Byte) : valS (u8tof b) = .fin false (b.toNat * 2 ^ 149) := by
  have hholds : Prec.s.holds (b.toNat * 2 ^ 149) := holds_mul_two_pow .s (b.isLt.trans (by decide)) (by decide)
  have hbits : u8tof b = bitsS 0 (.fin false (b.toNat * 2 ^ 149)) :=
    congrArg (BitVec.ofNat 32) (Nat.zero_add _).symm
  rw [hbits]
  exact valS_bitsS 0 hholds

/-! ### The commands whose checks pass -/

section
variable {s : State}

theorem exec_mnew (hfits : fits s) :
    exec .mnew s = .next (s.setMat (PixelMatrix.new s.opnd.argh.toNat s.opnd.argw.toNat)).complete := by
  refine exec_of_body_ok ?_
  rw [body, checkCapacity_eq_ok_iff.mpr hfits]
  rfl

theorem exec_mget (px : Fin 4) (hrow : s.opnd.row.toNat < s.mat.height.toNat) (hcol : s.opnd.col.toNat < s.mat.width.toNat) :
    exec (.mget px) s = .next (s.setPx px (s.mat.cell s.opnd.row.toNat s.opnd.col.toNat)).complete := by
  refine exec_of_body_ok ?_
  rw [body, (checkInside_ok_iff _ _).mpr ⟨hrow, hcol⟩]
  rfl

theorem exec_mset (px : Fin 4) (hrow : s.opnd.row.toNat < s.mat.height.toNat) (hcol : s.opnd.col.toNat < s.mat.width.toNat) :
    exec (.mset px) s =
      .next (s.setMat (s.mat.setCell s.opnd.row.toNat s.opnd.col.toNat (s.px.get px))).complete := by
  refine exec_of_body_ok ?_
  rw [body, (checkInside_ok_iff _ _).mpr ⟨hrow, hcol⟩]
  rfl

theorem exec_mfrr (hfits : fits s) (hread : ∀ a ∈ region s, mayAccess s .rd a) :
    exec .mfrr s = .next (s.setMat (matrixFromRaster s.raster s.opnd)).complete := by
  refine exec_of_body_ok ?_
  rw [body, checkCapacity_eq_ok_iff.mpr hfits, checkFootprint_eq_ok hread]
  rfl

end

/-! ### The statements -/

/-- Settles O27: the capacity check decides, and the new Matrix lists no cell. -/
theorem mnewBuildsABlackMatrix : Obligations.MnewBuildsABlackMatrix := by
  intro s
  constructor
  · intro hfits
    obtain ⟨hh, hw, -⟩ := PixelMatrix.new_size (checkCapacity_eq_ok_iff.mpr hfits)
    exact ⟨_, exec_mnew hfits, rfl, hh, hw, fun r c _ _ => PixelMatrix.cell_new _ _ r c⟩
  · intro hfits
    refine exec_of_body_error (e := .paramRange 4 0) ?_
    rw [body, checkCapacity_eq_error hfits]
    rfl

/-- Settles O28: the bounds check decides, and one pixel register is written. -/
theorem mgetCopiesACell : Obligations.MgetCopiesACell := by
  intro s px
  constructor
  · intro hrow hcol
    exact ⟨_, exec_mget px hrow hcol, rfl, fun n => s.px_get_setPx px n _⟩
  · intro hout
    refine exec_of_body_error (e := .indexOutOfRange s.opnd.row s.opnd.col) ?_
    rw [body, checkInside_eq_error hout]
    rfl

/-- Settles O29: the bounds check decides, and the cells of a legal Matrix are stored under different indices. -/
theorem msetReplacesOneCell : Obligations.MsetReplacesOneCell := by
  intro s px hs
  constructor
  · intro hrow hcol
    obtain ⟨-, -, hm, -⟩ := State.inv_iff.mp hs
    exact ⟨_, exec_mset px hrow hcol, rfl, rfl, rfl, fun r c _ hc => PixelMatrix.cell_setCell hm hcol hc _⟩
  · intro hout
    refine exec_of_body_error (e := .indexOutOfRange s.opnd.row s.opnd.col) ?_
    rw [body, checkInside_eq_error hout]
    rfl

/-- Settles O31: both checks pass, and a cell holds the raster's pixel at its place, whose bytes are converted exactly. -/
theorem mfrrBuildsTheMatrixFromTheRaster : Obligations.MfrrBuildsTheMatrixFromTheRaster := by
  intro s hfits hread
  obtain ⟨hh, hw⟩ := matrixFromRaster_size hfits
  refine ⟨_, exec_mfrr hfits hread, rfl, hh, hw, fun r c _ hc => ?_⟩
  rw [State.complete_mat, State.setMat_mat, cell_matrixFromRaster hfits (hw ▸ hc)]
  split
  · exact ⟨rfl, valS_u8tof _, valS_u8tof _, valS_u8tof _⟩
  · rfl

/-- Settles O32: the capacity check comes first, and the footprint check finds the first byte that fails. -/
theorem mfrrErrors : Obligations.MfrrErrors := by
  intro s
  constructor
  · intro hfits
    refine exec_of_body_error (e := .paramRange 4 0) ?_
    rw [body, checkCapacity_eq_error hfits]
    rfl
  · intro a hfits hfail
    refine (exec_of_body_error (e := .busFault a .rd) ?_).trans ?_
    · rw [body, checkCapacity_eq_ok_iff.mpr hfits, checkFootprint_eq_error hfail]
      rfl
    · rw [infoB_busFault]
      rfl

end Sys2Proof.Machine
end

section
/-! O33, O34, O35: `MTOR`, and `MFRR` followed by it. The last write to an address stands, each write stores a clamped channel, and
after `MFRR` each stores the byte that is there already. -/

namespace Sys2Proof.Machine

open Sys2Proof.Claims

/-! ### The region check -/

section
variable {s : State}

theorem checkRegion_eq_ok (h : regionFits s) : checkRegion s.mat s.opnd = .ok () := by
  refine if_neg fun ⟨hh, hw, hout⟩ => ?_
  obtain hh0 | hw0 | ⟨hle, hle'⟩ := h <;> omega

/-- The column test comes first (R168). -/
theorem checkRegion_eq_error_of_wide (hh : 0 < s.opnd.argh.toNat) (hw : s.mat.width.toNat < s.opnd.argw.toNat) :
    checkRegion s.mat s.opnd = .error (.indexOutOfRange 0 s.mat.width) := by
  rw [checkRegion, if_pos ⟨hh, Nat.zero_lt_of_lt hw, .inr hw⟩, if_pos hw]

theorem checkRegion_eq_error_of_high (hw0 : 0 < s.opnd.argw.toNat) (hw : s.opnd.argw.toNat ≤ s.mat.width.toNat)
    (hh : s.mat.height.toNat < s.opnd.argh.toNat) : checkRegion s.mat s.opnd = .error (.indexOutOfRange s.mat.height 0) := by
  rw [checkRegion, if_pos ⟨Nat.zero_lt_of_lt hh, hw0, .inl hh⟩, if_neg hw.not_gt]

theorem checkExport_eq_ok (hregion : regionFits s) (hwrite : ∀ a ∈ region s, mayAccess s .wr a) : s.checkExport = .ok () := by
  rw [State.checkExport, checkRegion_eq_ok hregion, checkFootprint_eq_ok hwrite]
  rfl

end

/-! ### A list of byte writes -/

/-- A write that no later one of the list coincides with stands (R78). -/
theorem Memory.read_writeAll_of_last {m : Memory} (hm : m.wf) {l₁ l₂ : List (Nat × Byte)} (hl : ∀ e ∈ l₁, e.1 < 2 ^ 32)
    {a : Nat} (v : Byte) (hlast : ∀ e ∈ l₂, e.1 ≠ a) : (m.writeAll (l₁ ++ (a, v) :: l₂)).read a = v := by
  rw [Memory.writeAll_append]
  exact (Memory.read_writeAll_of_not_mem l₂ _ a hlast).trans (Memory.read_write_same _ a v (Memory.writeAll_wf l₁ m hm hl))

/-- Writes that each store what is already there change no byte, though they may coincide. -/
theorem Memory.read_writeAll_of_unchanged {m : Memory} (hm : m.wf) {l : List (Nat × Byte)} (hl : ∀ e ∈ l, e.1 < 2 ^ 32)
    (hsame : ∀ e ∈ l, e.2 = m.read e.1) (a : Nat) : (m.writeAll l).read a = m.read a := by
  induction l generalizing m with
  | nil => rfl
  | cons e l ih =>
    have hwrite : ∀ j, (m.write e.1 e.2).read j = m.read j := by
      intro j
      by_cases hj : j = e.1
      · rw [hj, Memory.read_write_same _ _ _ hm, hsame e List.mem_cons_self]
      · exact Memory.read_write_ne _ _ _ _ hj
    refine (ih (Memory.write_wf _ _ _ hm (hl e List.mem_cons_self)) (fun x hx => hl x (List.mem_cons_of_mem _ hx))
      fun x hx => ?_).trans (hwrite a)
    rw [hwrite, hsame x (List.mem_cons_of_mem _ hx)]

/-! ### The writes of `MTOR` -/

/-- The byte write of `MTOR` at a point of R78 (R168). -/
def State.exportAt (s : State) (p : Nat × Nat × Nat) : Nat × Byte :=
  (addr s p.1 p.2.1 p.2.2, s.exportByte ⟨p.1, p.2.1, p.2.2⟩)

section
variable {s : State}

theorem exportWrites_eq_map (s : State) : s.exportWrites = (points s).map s.exportAt := by
  rw [State.exportWrites, rasterPoints_eq_points, List.map_map]
  rfl

/-- The points stand in the access order of R78. -/
theorem points_pairwise_before (s : State) :
    (points s).Pairwise fun p q => before p.1 p.2.1 p.2.2 q.1 q.2.1 q.2.2 := by
  unfold points before
  refine List.pairwise_flatMap.mpr ⟨fun r _ => List.pairwise_flatMap.mpr ⟨fun c _ => ?_, ?_⟩, ?_⟩
  · exact List.pairwise_lt_range.map _ fun _ _ hb => .inr ⟨rfl, .inr ⟨rfl, hb⟩⟩
  · refine List.pairwise_lt_range.imp fun hc p hp q hq => ?_
    obtain ⟨_, -, rfl⟩ := List.mem_map.mp hp
    obtain ⟨_, -, rfl⟩ := List.mem_map.mp hq
    exact .inr ⟨rfl, .inl hc⟩
  · refine List.pairwise_lt_range.imp fun hr p hp q hq => .inl ?_
    simp only [List.mem_flatMap, List.mem_map] at hp hq
    obtain ⟨_, -, _, -, rfl⟩ := hp
    obtain ⟨_, -, _, -, rfl⟩ := hq
    exact hr

/-- What follows a point in the list comes after it in the access order. -/
theorem exists_points_eq_append {r c b : Nat} (hp : (r, c, b) ∈ points s) :
    ∃ done later, points s = done ++ (r, c, b) :: later ∧
      ∀ q ∈ later, q ∈ points s ∧ before r c b q.1 q.2.1 q.2.2 := by
  obtain ⟨done, later, hsplit⟩ := List.append_of_mem hp
  have horder := points_pairwise_before s
  rw [hsplit] at horder ⊢
  obtain ⟨-, horder, -⟩ := List.pairwise_append.mp horder
  refine ⟨done, later, rfl, fun q hq => ⟨?_, (List.pairwise_cons.mp horder).1 q hq⟩⟩
  exact List.mem_append_right _ (List.mem_cons_of_mem _ hq)

/-- `clampbyte` gives a byte that R169 allows: past 255 it clamps, and a floor up to 255 fits a byte. -/
theorem clampByte_clampedTo (nanByte : Byte) (x : FVal) : clampedTo x (clampByte nanByte x) := by
  cases x with
  | nan => trivial
  | inf neg => cases neg <;> rfl
  | fin neg m =>
    unfold clampedTo clampByte
    cases neg with
    | true => rfl
    | false =>
      have hunit : Prec.s.unitExp = 149 := rfl
      simp only [hunit, Bool.false_eq_true, if_false]
      split
      · rfl
      · next h =>
        rw [BitVec.toNat_ofNat]
        refine Nat.mod_eq_of_lt ((Nat.div_lt_iff_lt_mul (Nat.two_pow_pos _)).mpr ?_)
        omega

/-- The channel a byte of an exported pixel holds has the value R133 gives it (R70, R168). -/
theorem valS_channelOfByte (p : Pixel) (n b : Nat) : valS (p.channelBits n (channelOfByte b)) = exported p b := by
  obtain ⟨tag, c1, c2, c3⟩ := p
  cases tag with
  | additive => rcases b with _ | _ | b <;> rfl
  | lumaChroma =>
    obtain ⟨hr, hg, hb⟩ := valS_channelBits_lumaChroma (p := ⟨.lumaChroma, c1, c2, c3⟩) n rfl
    rcases b with _ | _ | b
    · exact hr
    · exact hg
    · exact hb

theorem exportByte_clampedTo (s : State) (r c b : Nat) :
    clampedTo (exported (s.mat.cell r c) b) (s.exportByte ⟨r, c, b⟩) := by
  rw [← valS_channelOfByte _ (s.byteDraw ⟨r, c, b⟩)]
  exact clampByte_clampedTo ..

/-- Of the writes at a list of points, one that no later one coincides with leaves its clamped channel (R78, R168). -/
theorem clampedTo_read_exports (hm : Memory.wf s.raster) {done later : List (Nat × Nat × Nat)} {r c b : Nat}
    (hdone : ∀ e ∈ done.map s.exportAt, e.1 < 2 ^ 32)
    (hlater : ∀ q ∈ later, addr s q.1 q.2.1 q.2.2 ≠ addr s r c b) :
    clampedTo (exported (s.mat.cell r c) b)
      ((s.raster.writeAll ((done ++ (r, c, b) :: later).map s.exportAt)).read (addr s r c b)) := by
  have hlast : ∀ e ∈ later.map s.exportAt, e.1 ≠ addr s r c b := by
    intro e he
    obtain ⟨q, hq, rfl⟩ := List.mem_map.mp he
    exact hlater q hq
  rw [List.map_append, List.map_cons]
  exact Memory.read_writeAll_of_last hm hdone (s.exportByte ⟨r, c, b⟩) hlast ▸ exportByte_clampedTo s r c b

/-- `MTOR` completes with its byte writes when both its checks pass. -/
theorem exec_mtor (h : s.checkExport = .ok ()) :
    exec .mtor s = .next ((s.setRaster (s.raster.writeAll s.exportWrites)).draw s.exportCount).complete := by
  refine exec_of_body_ok ?_
  rw [body, h]
  rfl

end

/-! ### The bytes that `MFRR` read -/

/-- A byte that was converted exactly is clamped to itself (R169). -/
theorem clampByte_u8tof (nanByte b : Byte) : clampByte nanByte (valS (u8tof b)) = b := by
  have hb : b.toNat ≤ 255 := Nat.le_of_lt_succ b.isLt
  have hle : ¬255 * 2 ^ Prec.s.unitExp < b.toNat * 2 ^ 149 := (Nat.mul_le_mul_right _ hb).not_gt
  rw [valS_u8tof, clampByte, if_neg Bool.false_ne_true, if_neg hle]
  exact (congrArg (BitVec.ofNat 8) (Nat.mul_div_cancel _ (Nat.two_pow_pos _))).trans (BitVec.ofNat_toNat ..)

theorem channelBits_rasterPixel (m : Memory) (o : OperandRegs) (r c n : Nat) {b : Nat} (hb : b < 3) :
    (rasterPixel m o r c).channelBits n (channelOfByte b) = u8tof (m.read (rasterAddr o r c b)) := by
  interval_cases b <;> rfl

/-- After `MFRR` the byte `MTOR` would store at a point is the one the raster holds there. -/
theorem exportByte_after_mfrr {s : State} (h : fits s) {r c b : Nat} (hp : (r, c, b) ∈ points s) :
    (s.setMat (matrixFromRaster s.raster s.opnd)).complete.exportByte ⟨r, c, b⟩ = s.raster.read (addr s r c b) := by
  obtain ⟨hr, hc, hb⟩ := mem_points.mp hp
  rw [State.exportByte, State.complete_mat, State.setMat_mat, cell_matrixFromRaster h (hc.trans_le (le_pad8 _)),
    if_pos ⟨hr, hc⟩, channelBits_rasterPixel _ _ _ _ _ hb, clampByte_u8tof]
  rfl

/-! ### The statements -/

/-- Settles O33: the points after a given one in the list are those after it in access order, so the byte stands when none of them
shares its address. -/
theorem mtorExportsTheRegion : Obligations.MtorExportsTheRegion := by
  intro s hs hregion hwrite
  have hc := checkExport_eq_ok hregion hwrite
  have hlt := exportWrites_lt hc
  refine ⟨_, exec_mtor hc, rfl, fun a ha => ?_, fun r c b hr hc hb hlater => ?_⟩
  · refine Memory.read_writeAll_of_not_mem _ _ a fun e he hea => ha ?_
    rw [exportWrites_eq_map, List.mem_map] at he
    obtain ⟨p, hp, rfl⟩ := he
    rw [region_eq_map]
    exact hea ▸ List.mem_map_of_mem hp
  · obtain ⟨done, later, hsplit, hafter⟩ := exists_points_eq_append (mem_points.mpr ⟨hr, hc, hb⟩)
    rw [exportWrites_eq_map, hsplit, List.map_append] at hlt
    rw [State.complete_raster, State.draw_raster, State.setRaster_raster, exportWrites_eq_map, hsplit]
    refine clampedTo_read_exports hs.raster (fun e he => hlt e (List.mem_append_left _ he)) fun ⟨r', c', b'⟩ hq => ?_
    obtain ⟨hmem, hbefore⟩ := hafter _ hq
    obtain ⟨hr', hc', hb'⟩ := mem_points.mp hmem
    exact hlater r' c' b' hr' hc' hb' hbefore

/-- Settles O34: the region check comes first, its column test before its row test, and the footprint check finds the first byte
that fails. -/
theorem mtorErrors : Obligations.MtorErrors := by
  intro s
  refine ⟨fun hh hw => ?_, fun hw0 hw hh => ?_, fun a hregion hfail => ?_⟩
  · refine exec_of_body_error (e := .indexOutOfRange 0 s.mat.width) ?_
    rw [body, State.checkExport, checkRegion_eq_error_of_wide hh hw]
    rfl
  · refine exec_of_body_error (e := .indexOutOfRange s.mat.height 0) ?_
    rw [body, State.checkExport, checkRegion_eq_error_of_high hw0 hw hh]
    rfl
  · refine (exec_of_body_error (e := .busFault a .wr) ?_).trans ?_
    · rw [body, State.checkExport, checkRegion_eq_ok hregion, checkFootprint_eq_error hfail]
      rfl
    · rw [infoB_busFault]
      rfl

/-- Settles O35: the padded Matrix holds the whole region, and each write of `MTOR` stores the byte that is there. -/
theorem rasterRoundTrip : Obligations.RasterRoundTrip := by
  intro s hs hfits haccess
  obtain ⟨hh, hw⟩ := matrixFromRaster_size hfits
  have hregion : regionFits (s.setMat (matrixFromRaster s.raster s.opnd)).complete :=
    .inr (.inr ⟨(le_pad8 _).trans_eq hh.symm, (le_pad8 _).trans_eq hw.symm⟩)
  have hc := checkExport_eq_ok hregion fun a ha => (haccess a ha).2
  refine ⟨_, _, exec_mfrr hfits fun a ha => (haccess a ha).1, exec_mtor hc, rfl, rfl, fun a => ?_⟩
  refine Memory.read_writeAll_of_unchanged hs.raster (exportWrites_lt hc) (fun e he => ?_) a
  rw [exportWrites_eq_map, List.mem_map] at he
  obtain ⟨⟨r, c, b⟩, hp, rfl⟩ := he
  exact exportByte_after_mfrr hfits hp

end Sys2Proof.Machine
end

section
/-! O41, O42: the partitions of Formulation A tile the first index, and `GOUT` after a transform depends on the cells that were
computed, not on the order they were computed in. -/

namespace Sys2Proof.Machine

open Sys2Proof.Claims

/-! ### The partitions -/

section
variable {W P : Nat}

theorem partEnd_last (W P : Nat) : partEnd W P (P - 1) = W := if_pos rfl

theorem partEnd_of_lt {p : Nat} (hp : p + 1 < P) : partEnd W P p = partStart W P (p + 1) := if_neg (by omega)

theorem partEnd_sub_partStart {p : Nat} (hp : p + 1 < P) : partEnd W P p - partStart W P p = W / P := by
  rw [partEnd_of_lt hp, partStart, partStart, Nat.succ_mul, Nat.add_sub_cancel_left]

/-- The last partition takes the remainder (R210). -/
theorem partEnd_sub_partStart_last (hP : 1 ≤ P) : partEnd W P (P - 1) - partStart W P (P - 1) = W / P + W % P := by
  have hW : (P - 1) * (W / P) + (W / P + W % P) = W := by
    rw [← add_assoc, ← Nat.succ_mul, Nat.succ_eq_add_one, Nat.sub_add_cancel hP, Nat.div_add_mod]
  rw [partEnd_last, partStart]
  exact Nat.sub_eq_of_eq_add' hW.symm

/-- A partition ends before a later one begins. -/
theorem partEnd_le_partStart {p q : Nat} (hpq : p < q) (hq : q < P) : partEnd W P p ≤ partStart W P q := by
  rw [partEnd_of_lt (by omega)]
  exact Nat.mul_le_mul_right _ hpq

/-- No index lies in two partitions (R210). -/
theorem eq_of_mem_partIndices {p q a : Nat} (hp : p < P) (hq : q < P) (hap : a ∈ partIndices W P p)
    (haq : a ∈ partIndices W P q) : p = q := by
  rw [mem_partIndices] at hap haq
  rcases Nat.lt_trichotomy p q with hlt | heq | hgt
  · have := partEnd_le_partStart (W := W) hlt hq
    omega
  · exact heq
  · have := partEnd_le_partStart (W := W) hgt hp
    omega

theorem lt_of_mem_liveParts (hP : 1 ≤ P) {p : Nat} (hp : p ∈ liveParts W P) : p < P := by
  unfold liveParts at hp
  split at hp
  · exact List.mem_range.mp hp
  · rw [List.mem_singleton] at hp
    omega

theorem liveParts_nodup (W P : Nat) : (liveParts W P).Nodup := by
  unfold liveParts
  split
  · exact List.nodup_range
  · exact List.nodup_singleton _

/-- Every index lies in some partition (R210): its row of the grid is computed by a lane. -/
theorem exists_mem_partIndices (hP : 1 ≤ P) {a : Nat} (ha : a < W) : ∃ p, p < P ∧ a ∈ partIndices W P p := by
  have hmem : (a, 0) ∈ laneOrder W 1 P := (mem_laneOrder hP).mpr ⟨ha, one_pos⟩
  obtain ⟨p, hp, hcell⟩ := List.mem_flatMap.mp hmem
  obtain ⟨a', ha', hpair⟩ := List.mem_flatMap.mp hcell
  obtain ⟨b, -, heq⟩ := List.mem_map.mp hpair
  cases heq
  exact ⟨p, lt_of_mem_liveParts hP hp, ha'⟩

theorem partIndices_nodup (W P p : Nat) : (partIndices W P p).Nodup :=
  List.nodup_range.map fun _ _ h => Nat.add_left_cancel h

/-- The lanes compute the product of their indices with the second index. -/
theorem laneOrder_eq_product (W H P : Nat) :
    laneOrder W H P = (liveParts W P).flatMap (partIndices W P) ×ˢ List.range H :=
  List.flatMap_assoc.symm

/-- The lanes compute no cell twice (R212). -/
theorem laneOrder_nodup (H : Nat) (hP : 1 ≤ P) : (laneOrder W H P).Nodup := by
  rw [laneOrder_eq_product]
  refine List.Nodup.product (List.nodup_flatMap.mpr ⟨fun p _ => partIndices_nodup W P p, ?_⟩) List.nodup_range
  refine (liveParts_nodup W P).imp_of_mem fun {p q} hp hq hne a hap haq => hne ?_
  exact eq_of_mem_partIndices (lt_of_mem_liveParts hP hp) (lt_of_mem_liveParts hP hq) hap haq

end

/-- Settles O41: an index lies in some partition because the lanes compute every cell, and in one only because a partition ends
before the next begins. -/
theorem partitionsTileTheGrid : Obligations.PartitionsTileTheGrid := by
  intro W H P hP
  refine ⟨Nat.zero_mul _, partEnd_last W P, fun p hp => ⟨partEnd_of_lt hp, partEnd_sub_partStart hp⟩,
    partEnd_sub_partStart_last hP, fun a ha => ?_, laneOrder_nodup H hP, fun a b => mem_laneOrder hP⟩
  obtain ⟨p, hp, hap⟩ := exists_mem_partIndices hP ha
  exact ⟨p, ⟨hp, mem_partIndices.mp hap⟩, fun q hq hlo hhi =>
    eq_of_mem_partIndices hq hp (mem_partIndices.mpr ⟨hlo, hhi⟩) hap⟩

/-! ### The order of the cells -/

/-- `GOUT` after a transform with cell function `cell`, said container by container (R214, R217). -/
def State.resultGrid (s : State) (F : Prec) (cell : Nat → Nat → FVal) : Grid :=
  Grid.build fun a b =>
    if a < s.opnd.gw.toNat ∧ b < s.opnd.gh.toNat then storeContainer F (s.cellDraw a b) (cell a b) else 0

theorem State.get_resultGrid (s : State) (F : Prec) (cell : Nat → Nat → FVal) {a b : Nat} (ha : a < 8) (hb : b < 8) :
    (s.resultGrid F cell).get a b =
      if a < s.opnd.gw.toNat ∧ b < s.opnd.gh.toNat then storeContainer F (s.cellDraw a b) (cell a b) else 0 :=
  Grid.get_build _ a b ha hb

/-- `order` holds the cells of the grid the operand registers describe, in any order and any number of times. -/
def coversGrid (o : OperandRegs) (order : List (Nat × Nat)) : Prop :=
  ∀ a b, (a, b) ∈ order ↔ a < o.gw.toNat ∧ b < o.gh.toNat

/-- A transform leaves the same state whatever the order of the cells (R215, R216). -/
theorem transformed_eq_resultGrid {s : State} {F : Prec} {order : List (Nat × Nat)} (cell : Nat → Nat → FVal)
    (hl : legalExtents s.opnd) (horder : coversGrid s.opnd order) :
    s.transformed F order cell = (s.setGout (s.resultGrid F cell)).draw (Config.nmax * Config.nmax) := by
  obtain ⟨⟨-, hgw⟩, -, hgh⟩ := hl
  have hbound : ∀ ab ∈ order, ab.1 < Config.nmax ∧ ab.2 < Config.nmax := fun ab hab =>
    ((horder ab.1 ab.2).mp hab).imp (·.trans_le hgw) (·.trans_le hgh)
  have hgrid : ((s.gout.putAll (fun a b => storeContainer F (s.cellDraw a b) (cell a b)) order).clearOutside
      s.opnd.gw.toNat s.opnd.gh.toNat) = s.resultGrid F cell := by
    refine Grid.ext_get fun a b ha hb => ?_
    rw [Grid.get_clearOutside _ _ _ a b ha hb, s.get_resultGrid F cell ha hb]
    split
    · next hin => exact Grid.get_putAll_of_mem _ order _ a b hbound ((horder a b).mpr hin)
    · rfl
  rw [State.transformed, hgrid]

theorem coversGrid_laneOrder {o : OperandRegs} {P : Nat} (hP : 1 ≤ P) :
    coversGrid o (laneOrder o.gw.toNat o.gh.toNat P) := fun _ _ => mem_laneOrder hP

theorem coversGrid_gridCells (o : OperandRegs) : coversGrid o (gridCells o.gw.toNat o.gh.toNat) := fun _ _ => mem_gridCells

/-- Settles O42: both orders cover the grid, and a transform leaves the same state for each of them. -/
theorem scheduleDoesNotMatter : Obligations.ScheduleDoesNotMatter := by
  intro s F cell P order hl hP horder
  rw [transformed_eq_resultGrid cell hl horder, transformed_eq_resultGrid cell hl (coversGrid_laneOrder hP)]

end Sys2Proof.Machine
end

section
/-! What the transforms need of the arithmetic: products and encodings are values of the format, a container holds the result
stored in it, and 1 is neutral in a product. -/

namespace Sys2Proof

open Sys2Proof.Claims

/-! ### Values of the format -/

/-- A product is a value of the format whatever is multiplied: finite values are rounded (R12). -/
theorem fmul_ofFormat (F : Prec) (x y : FVal) : (fmul F x y).ofFormat F := by
  cases x with
  | nan => rw [fmul_nan_left]; trivial
  | inf s =>
    cases y with
    | nan | inf => trivial
    | fin t n => simp only [fmul]; split <;> trivial
  | fin s m =>
    cases y with
    | nan => trivial
    | inf t => simp only [fmul]; split <;> trivial
    | fin t n => exact rn_ofFormat ..

theorem val_ofFormat (F : Prec) {v : Nat} (hv : v < 2 ^ F.width) : (val F v).ofFormat F := by
  by_cases hnan : val F v = .nan
  · rw [hnan]
    trivial
  · exact (bits_val F 0 hv hnan).2

theorem loadContainer_ofFormat (F : Prec) (c : Container) : (loadContainer F c).ofFormat F :=
  val_ofFormat F (Nat.mod_lt _ (Nat.two_pow_pos _))

/-! ### The container of a result -/

section
variable (F : Prec) (n : Nat) {y : FVal} (hy : y.ofFormat F)
include hy

theorem toNat_storeContainer : (storeContainer F n y).toNat = bits F n y := by
  have hwidth : 2 ^ F.width ≤ 2 ^ 64 := by cases F <;> decide
  rw [storeContainer, BitVec.toNat_ofNat, Nat.mod_eq_of_lt ((val_bits F n y hy).1.trans_le hwidth)]

/-- A container holds the result that was stored in it (R202, R228). -/
theorem holdsResult_storeContainer : holdsResult F (storeContainer F n y) y := by
  obtain ⟨hlt, hval⟩ := val_bits F n y hy
  cases F with
  | s => rw [holdsResult, toNat_storeContainer .s n hy]; exact ⟨hlt, hval⟩
  | d => rw [holdsResult, toNat_storeContainer .d n hy]; exact hval

end

/-- The container of a NaN result holds a NaN pattern of the format (R228, U1). -/
theorem isNaNPattern_storeContainer_nan (F : Prec) (n : Nat) :
    isNaNPattern F ((storeContainer F n .nan).toNat % 2 ^ F.width) := by
  have hnan : FVal.nan.ofFormat F := trivial
  rw [toNat_storeContainer F n hnan, Nat.mod_eq_of_lt (val_bits F n .nan hnan).1]
  exact isNaNPattern_bits_nan F n

/-! ### Products with 1, sums from `+0` -/

theorem roundDiv_mul_right (n k : Nat) {d : Nat} (hd : 0 < d) : roundDiv (n * d) (k * d) = roundDiv n k := by
  simp only [roundDiv, Nat.mul_mod_mul_right, Nat.mul_div_mul_right _ _ hd, ← mul_assoc, Nat.mul_lt_mul_right hd]

theorem rn_mul_right (F : Prec) (s : Bool) (m : Nat) {d : Nat} (hd : 0 < d) : rn F s (m * d) d = rn F s m 1 := by
  have hspacing : spacing F (m * d) d = spacing F m 1 := by
    rw [spacing, spacing, Nat.mul_div_cancel _ hd, Nat.div_one]
  have hmag : rnMag F (m * d) d = rnMag F m 1 := by
    rw [rnMag, rnMag, hspacing, mul_comm d, roundDiv_mul_right _ _ hd, one_mul]
  rw [rn, rn, hmag]

theorem fmul_one_right (F : Prec) {x : FVal} (hx : x.ofFormat F) : fmul F x (.ofNat F 1) = x := by
  have hone : 1 * 2 ^ F.unitExp ≠ 0 := by rw [one_mul]; exact (Nat.two_pow_pos _).ne'
  cases x with
  | nan => rfl
  | inf s => rw [FVal.ofNat, fmul_inf_fin F s false hone, Bool.xor_false]
  | fin s m => rw [FVal.ofNat, fmul, Bool.xor_false, one_mul, rn_mul_right F s m (Nat.two_pow_pos _), rn_of_holds F s hx]

theorem fmul_comm (F : Prec) (x y : FVal) : fmul F x y = fmul F y x := by
  cases x <;> cases y <;> simp only [fmul, Bool.xor_comm, Nat.mul_comm]

theorem fmul_one_left (F : Prec) {x : FVal} (hx : x.ofFormat F) : fmul F (.ofNat F 1) x = x := by
  rw [fmul_comm, fmul_one_right F hx]

theorem one_ofFormat (F : Prec) : (FVal.ofNat F 1).ofFormat F :=
  Machine.holds_mul_two_pow F (Nat.one_lt_two_pow (Nat.succ_ne_zero _)) (by cases F <;> decide)

/-- The first term added to `+0` (R209): a `-0` becomes `+0`. -/
theorem fadd_zero_left (F : Prec) {x : FVal} (hx : x.ofFormat F) :
    fadd F .zero x = if x = .fin true 0 then .fin false 0 else x := by
  cases x with
  | nan | inf => rfl
  | fin t n =>
    rcases eq_or_ne n 0 with rfl | hn
    · cases t
      · exact fadd_zero_same F false
      · exact fadd_fin_not F false 0
    · rw [FVal.zero, fadd_zero_fin F t false hx hn, if_neg (by simp [hn])]

end Sys2Proof
end

section
/-! O36..O40, O43, O44, O46: the transform commands. A transform whose checks pass leaves `resultGrid` of its cell function in
`GOUT`; what the statements say of a container is then a fact about the cell function of R209. -/

namespace Sys2Proof.Machine

open Sys2Proof.Claims

/-! ### The sum and the input grid -/

theorem sum_eq_gridSum : Claims.sum = gridSum := by
  funext F W H term
  rw [Claims.sum, gridSum, gridCells]
  simp only [List.foldl_flatMap, List.foldl_map]
  rfl

theorem input_eq_value (s : State) (F : Prec) : input s F = s.gin.value F := by
  funext a b
  cases F with
  | s => rfl
  | d => exact congrArg (val .d) (Nat.mod_eq_of_lt (s.gin.get a b).isLt).symm

theorem input_ofFormat (s : State) (F : Prec) (a b : Nat) : (input s F a b).ofFormat F := by
  rw [input_eq_value]
  exact loadContainer_ofFormat F _

theorem gridSum_ofFormat (F : Prec) (W H : Nat) (term : Nat → Nat → FVal) : (gridSum F W H term).ofFormat F :=
  List.foldlRecOn (motive := FVal.ofFormat F) _ _ (zero_ofFormat F false) fun _ _ _ _ => fadd_ofFormat ..

/-- A sum with a NaN term is a NaN: once the partial sum is a NaN it stays one (R12). -/
theorem gridSum_eq_nan (F : Prec) {W H a b : Nat} {term : Nat → Nat → FVal} (ha : a < W) (hb : b < H)
    (hterm : term a b = .nan) : gridSum F W H term = .nan := by
  obtain ⟨before, after, hsplit⟩ := List.append_of_mem (mem_gridCells.mpr ⟨ha, hb⟩)
  rw [gridSum, hsplit, List.foldl_append, List.foldl_cons, hterm, fadd_nan_right]
  refine List.foldlRecOn (motive := (· = FVal.nan)) _ _ rfl fun acc hacc _ _ => ?_
  rw [hacc, fadd_nan_left]

theorem gridSum_one_by_one (F : Prec) (term : Nat → Nat → FVal) : gridSum F 1 1 term = fadd F .zero (term 0 0) := rfl

/-! ### The four transforms -/

/-- A cell function of R209, from the format, the extents and the input grid. -/
abbrev CellFn := Prec → Nat → Nat → (Nat → Nat → FVal) → Nat → Nat → FVal

/-- The two formulations: A runs on `NPART` lanes (R210), B on one (R218). -/
inductive Formulation where
  | a
  | b

/-- The checks of a formulation's commands (R204). -/
def Formulation.check : Formulation → OperandRegs → Except CommandError Unit
  | .a, o => checkExtentsAndParts o
  | .b, o => checkExtents o

/-- The order a formulation's commands compute the cells in. -/
def Formulation.order : Formulation → OperandRegs → List (Nat × Nat)
  | .a, o => laneOrder o.gw.toNat o.gh.toNat o.npart.toNat
  | .b, o => gridCells o.gw.toNat o.gh.toNat

/-- The transform commands of format `F`, each with its formulation and its cell function (R209). -/
inductive Transform (F : Prec) : Formulation → Instr → CellFn → Prop where
  | dcta : Transform F .a (.dcta F) cellAFwd
  | idcta : Transform F .a (.idcta F) cellAInv
  | dctb : Transform F .b (.dctb F) cellBFwd
  | idctb : Transform F .b (.idctb F) cellBInv

/-- The state a transform with cell function `f` completes in. -/
def State.result (s : State) (F : Prec) (f : CellFn) : State :=
  ((s.setGout (s.resultGrid F (f F s.opnd.gw.toNat s.opnd.gh.toNat (input s F)))).draw (Config.nmax * Config.nmax)).complete

section
variable {F : Prec} {i : Instr} {s : State}

theorem transformA_of_mem (hi : i ∈ [Instr.dcta F, .idcta F]) : ∃ f, Transform F .a i f := by
  simp only [List.mem_cons, List.not_mem_nil, or_false] at hi
  rcases hi with rfl | rfl
  · exact ⟨_, .dcta⟩
  · exact ⟨_, .idcta⟩

theorem transformB_of_mem (hi : i ∈ [Instr.dctb F, .idctb F]) : ∃ f, Transform F .b i f := by
  simp only [List.mem_cons, List.not_mem_nil, or_false] at hi
  rcases hi with rfl | rfl
  · exact ⟨_, .dctb⟩
  · exact ⟨_, .idctb⟩

theorem transform_of_mem (hi : i ∈ [Instr.dcta F, .idcta F, .dctb F, .idctb F]) : ∃ φ f, Transform F φ i f := by
  rcases List.mem_append.mp (show i ∈ [Instr.dcta F, .idcta F] ++ [.dctb F, .idctb F] from hi) with hA | hB
  · exact ⟨.a, transformA_of_mem hA⟩
  · exact ⟨.b, transformB_of_mem hB⟩

/-! ### The checks -/

theorem Formulation.check_eq_ok {φ : Formulation} {o : OperandRegs} (hl : legalExtents o) (hp : φ = .a → 1 ≤ o.npart.toNat) :
    φ.check o = .ok () := by
  cases φ with
  | a => exact (checkExtentsAndParts_ok_iff o).mpr ⟨hl, hp rfl⟩
  | b => exact (checkExtents_ok_iff o).mpr hl

/-- The extents are checked first in both formulations. -/
theorem Formulation.check_eq_error (φ : Formulation) {o : OperandRegs} {e : CommandError} (h : checkExtents o = .error e) :
    φ.check o = .error e := by
  cases φ with
  | a => rw [Formulation.check, checkExtentsAndParts, h]; rfl
  | b => exact h

theorem Formulation.coversGrid_order {φ : Formulation} {o : OperandRegs} (hp : φ = .a → 1 ≤ o.npart.toNat) :
    coversGrid o (φ.order o) := by
  cases φ with
  | a => exact coversGrid_laneOrder (hp rfl)
  | b => exact coversGrid_gridCells o

theorem checkExtents_eq_error_gw {o : OperandRegs} (h : o.gw.toNat = 0 ∨ 8 < o.gw.toNat) :
    checkExtents o = .error (.paramRange 1 o.gw) := if_pos h

theorem checkExtents_eq_error_gh {o : OperandRegs} (hw : 1 ≤ o.gw.toNat) (hw8 : o.gw.toNat ≤ 8)
    (h : o.gh.toNat = 0 ∨ 8 < o.gh.toNat) : checkExtents o = .error (.paramRange 2 o.gh) := by
  have hgw : ¬(o.gw.toNat = 0 ∨ Config.nmax < o.gw.toNat) := not_or.mpr ⟨by omega, hw8.not_gt⟩
  exact (if_neg hgw).trans (if_pos h)

theorem checkExtentsAndParts_eq_error {o : OperandRegs} (hl : legalExtents o) (h : o.npart.toNat = 0) :
    checkExtentsAndParts o = .error (.paramRange 3 0) := by
  have hzero : o.npart = 0 := BitVec.eq_of_toNat_eq h
  rw [checkExtentsAndParts, (checkExtents_ok_iff o).mpr hl, hzero]
  rfl

/-! ### The outcome of a transform -/

variable {φ : Formulation} {f : CellFn} (h : Transform F φ i f)
include h

theorem Transform.body_eq (s : State) :
    body i s = (do
      φ.check s.opnd
      return s.transformed F (φ.order s.opnd) (f F s.opnd.gw.toNat s.opnd.gh.toNat (s.gin.value F))) := by
  cases h <;> rfl

theorem Transform.exec_of_check_error {e : CommandError} (he : φ.check s.opnd = .error e) :
    exec i s = raises s e.code e.infoA e.infoB := by
  refine exec_of_body_error ?_
  rw [h.body_eq, he]
  rfl

/-- A transform whose checks pass completes, and its cell function says what `GOUT` holds (R209, R217). -/
theorem Transform.exec_eq (hl : legalExtents s.opnd) (hp : φ = .a → 1 ≤ s.opnd.npart.toNat) :
    exec i s = .next (s.result F f) := by
  refine exec_of_body_ok ?_
  rw [h.body_eq, Formulation.check_eq_ok hl hp, transformed_eq_resultGrid _ hl (Formulation.coversGrid_order hp),
    ← input_eq_value]
  rfl

/-! ### The cell functions -/

theorem Transform.cell_ofFormat (W H : Nat) (x : Nat → Nat → FVal) (a b : Nat) : (f F W H x a b).ofFormat F := by
  cases h with
  | dcta | dctb | idctb => exact fmul_ofFormat ..
  | idcta => exact gridSum_ofFormat ..

/-- A NaN in the input makes a term of every cell's sum a NaN (R219). -/
theorem Transform.cell_eq_nan {W H a b : Nat} {x : Nat → Nat → FVal} (ha : a < W) (hb : b < H) (hx : x a b = .nan)
    (u v : Nat) : f F W H x u v = .nan := by
  cases h with
  | dcta => rw [cellAFwd, gridSum_eq_nan F ha hb (by simp only [hx, fmul_nan_left]), fmul_nan_right]
  | idcta => rw [cellAInv, gridSum_eq_nan F ha hb (by simp only [hx, fmul_nan_left, fmul_nan_right])]
  | dctb => rw [cellBFwd, gridSum_eq_nan F ha hb (by simp only [hx, fmul_nan_left]), fmul_nan_right]
  | idctb => rw [cellBInv, gridSum_eq_nan F ha hb (by simp only [hx, fmul_nan_left]), fmul_nan_right]

/-- Every container of `GOUT` is the one the rules give, and nothing else changes but flags and draws (R217). -/
theorem Transform.transformedTo_result (s : State) :
    transformedTo s (s.result F f) F (f F s.opnd.gw.toNat s.opnd.gh.toNat (input s F)) := by
  refine ⟨rfl, fun a b ha hb => ?_⟩
  have hget := s.get_resultGrid F (f F s.opnd.gw.toNat s.opnd.gh.toNat (input s F)) ha hb
  split
  · next hin =>
    rw [if_pos hin] at hget
    exact hget ▸ holdsResult_storeContainer F _ (h.cell_ofFormat ..)
  · next hout => exact hget.trans (if_neg hout)

theorem Transform.completes (hl : legalExtents s.opnd) (hp : φ = .a → 1 ≤ s.opnd.npart.toNat) :
    ∃ t, exec i s = .next t ∧ transformedTo s t F (f F s.opnd.gw.toNat s.opnd.gh.toNat (input s F)) :=
  ⟨_, h.exec_eq hl hp, h.transformedTo_result s⟩

end

/-! ### A grid of one cell -/

theorem cnRom_one (F : Prec) : cnRom F 1 0 = .ofNat F 1 := by cases F <;> decide +kernel

theorem cosRom_one (F : Prec) : cosRom F 1 0 0 = .ofNat F 1 := by cases F <;> decide +kernel

/-- Every constant of a 1 × 1 grid is 1, so the sum of the one term is left (R220, R221). -/
theorem cellA_one_by_one {F : Prec} {i : Instr} {f : CellFn} (h : Transform F .a i f) {x : Nat → Nat → FVal}
    (hx : (x 0 0).ofFormat F) : f F 1 1 x 0 0 = if x 0 0 = .fin true 0 then .fin false 0 else x 0 0 := by
  rw [← fadd_zero_left F hx]
  cases h with
  | dcta =>
    rw [cellAFwd, gridSum_one_by_one, cnRom_one, cosRom_one, fmul_one_right F hx, fmul_one_right F hx,
      fmul_one_right F (one_ofFormat F), fmul_one_left F (fadd_ofFormat ..)]
  | idcta =>
    rw [cellAInv, gridSum_one_by_one, cnRom_one, cosRom_one, fmul_one_right F (one_ofFormat F), fmul_one_left F hx,
      fmul_one_right F hx, fmul_one_right F hx]

/-! ### The statements -/

/-- Settles O36: each check's error is the command's, and with no error a transform completes. -/
theorem transformParameterErrors : Obligations.TransformParameterErrors := by
  intro s F
  refine ⟨fun i hi => ?_, fun i hi hl => ?_, fun i hi hl => ?_⟩
  · obtain ⟨φ, f, h⟩ := transform_of_mem hi
    exact ⟨fun hgw => h.exec_of_check_error (φ.check_eq_error (checkExtents_eq_error_gw hgw)),
      fun hw hw8 hgh => h.exec_of_check_error (φ.check_eq_error (checkExtents_eq_error_gh hw hw8 hgh))⟩
  · obtain ⟨f, h⟩ := transformA_of_mem hi
    exact ⟨fun hp => h.exec_of_check_error (checkExtentsAndParts_eq_error hl hp),
      fun hp => ⟨_, h.exec_eq hl fun _ => hp, rfl⟩⟩
  · obtain ⟨f, h⟩ := transformB_of_mem hi
    exact ⟨_, h.exec_eq hl nofun, rfl⟩

/-- Settles O37: `cellAFwd` is the statement's cell function, which sums in the same order. -/
theorem dctaComputesTheForwardTransform : Obligations.DctaComputesTheForwardTransform := by
  intro s F hl hp
  rw [sum_eq_gridSum]
  exact Transform.dcta.completes hl (fun _ => hp)

/-- Settles O38: `cellAInv` is the statement's cell function. -/
theorem idctaComputesTheInverseTransform : Obligations.IdctaComputesTheInverseTransform := by
  intro s F hl hp
  rw [sum_eq_gridSum]
  exact Transform.idcta.completes hl (fun _ => hp)

/-- Settles O39: `cellBFwd` is the statement's cell function, and Formulation B does not check `NPART`. -/
theorem dctbComputesTheForwardTransform : Obligations.DctbComputesTheForwardTransform := by
  intro s F hl
  rw [sum_eq_gridSum]
  exact Transform.dctb.completes hl nofun

/-- Settles O40: `cellBInv` is the statement's cell function, and Formulation B does not check `NPART`. -/
theorem idctbComputesTheInverseTransform : Obligations.IdctbComputesTheInverseTransform := by
  intro s F hl
  rw [sum_eq_gridSum]
  exact Transform.idctb.completes hl nofun

/-- Settles O43: the grid a transform leaves does not depend on `NPART`. -/
theorem partitionCountDoesNotChangeTheResult : Obligations.PartitionCountDoesNotChangeTheResult := by
  intro s F p q hl hp hq i hi
  obtain ⟨f, h⟩ := transformA_of_mem hi
  exact ⟨_, _, h.exec_eq hl fun _ => hp, h.exec_eq hl fun _ => hq, fun a b _ _ => ⟨rfl, fun _ => rfl⟩⟩

/-- Settles O44: every cell is a NaN, and its container holds some encoding of it. -/
theorem nanInputMakesEveryCellNaN : Obligations.NaNInputMakesEveryCellNaN := by
  intro s F hl hp ⟨k, l, hk, hl', hnan⟩ i hi
  obtain ⟨φ, f, h⟩ := transform_of_mem hi
  refine ⟨_, h.exec_eq hl fun _ => hp, rfl, fun a b ha hb => ?_⟩
  have hget : (s.result F f).gout.get a b = storeContainer F (s.cellDraw a b) .nan := by
    refine (s.get_resultGrid F _ (ha.trans_le hl.1.2) (hb.trans_le hl.2.2)).trans ?_
    rw [if_pos ⟨ha, hb⟩, h.cell_eq_nan hk hl' hnan]
  rw [hget]
  exact isNaNPattern_storeContainer_nan F _

/-- Settles O46: the one cell of the grid is the input, added to `+0`. -/
theorem oneByOneFormulationAIsTheIdentity : Obligations.OneByOneFormulationAIsTheIdentity := by
  intro s F hgw hgh hp i hi
  obtain ⟨f, h⟩ := transformA_of_mem hi
  have hl : legalExtents s.opnd := ⟨⟨hgw.ge, by omega⟩, hgh.ge, by omega⟩
  refine ⟨_, h.exec_eq hl fun _ => hp, ?_⟩
  have hcell := (h.transformedTo_result s).2 0 0 (by decide) (by decide)
  rw [if_pos ⟨by omega, by omega⟩, hgw, hgh, cellA_one_by_one h (input_ofFormat s F 0 0)] at hcell
  exact hcell

end Sys2Proof.Machine
end

section
/-! What O51 and O52 share: a number is nearest to a real number when two rational bounds of the real number round to it, since
the numbers to which it is as near as another one form a half-line. -/

namespace Sys2Proof

open Sys2Proof.Claims

/-! ### Rational bounds -/

/-- `RN_F` of a rational number (R12). -/
def rnRat (F : Prec) (r : ℚ) : FVal := rnRational F (decide (r < 0)) r.num.natAbs r.den

theorem rnRat_isRounded (F : Prec) (r : ℚ) : isRounded F r (rnRat F r) := by
  have hnum : (if decide (r < 0) then -1 else 1) * (r.num.natAbs : ℚ) = r.num := by
    rw [Nat.cast_natAbs]
    rcases lt_or_ge r 0 with h | h
    · simp [h, abs_of_neg (Rat.num_neg.mpr h)]
    · simp [h.not_gt, abs_of_nonneg (Rat.num_nonneg.mpr h)]
  refine rn_isRounded_of_eq F _ _ r.den_pos ?_
  calc r = r.num / r.den := (Rat.num_div_den r).symm
    _ = _ := by
      rw [← hnum]
      push_cast
      field_simp

/-- The difference of the two squared distances is linear in `x`. -/
theorem abs_sub_le_abs_sub_of_between {a b lo x hi : ℝ} (hlo : lo ≤ x) (hhi : x ≤ hi) (h₁ : |a - lo| ≤ |b - lo|)
    (h₂ : |a - hi| ≤ |b - hi|) : |a - x| ≤ |b - x| := by
  rw [← sq_le_sq] at h₁ h₂ ⊢
  rcases le_total a b with hab | hab <;> nlinarith

/-- Both ends of an interval round to `y`, which is no infinity. -/
abbrev endsRoundTo (F : Prec) (lo hi : ℚ) (y : FVal) : Prop := rnRat F lo = y ∧ rnRat F hi = y ∧ ∀ neg, y ≠ .inf neg

theorem isNearestReal_of_between {F : Prec} {lo hi : ℚ} {x : ℝ} {y : FVal} (h : endsRoundTo F lo hi y) (hlo : (lo : ℝ) ≤ x)
    (hhi : x ≤ hi) : isNearestReal F x y := by
  obtain ⟨hl, hh, hinf⟩ := h
  have hl := hl ▸ rnRat_isRounded F lo
  have hh := hh ▸ rnRat_isRounded F hi
  match y, hl, hh with
  | .inf neg, _, _ => exact absurd rfl (hinf neg)
  | .fin neg m, ⟨hm, hl⟩, ⟨_, hh⟩ =>
    refine ⟨neg, m, rfl, hm, fun neg' k e hk => abs_sub_le_abs_sub_of_between hlo hhi ?_ ?_⟩
    · exact_mod_cast (hl neg' k e hk).1
    · exact_mod_cast (hh neg' k e hk).1

end Sys2Proof
end

section
/-! O51: `CN` and `ALPHA`. Heron's method gives the rational bounds of the square roots. -/

namespace Sys2Proof

open Sys2Proof.Claims

/-! ### Square roots -/

/-- Heron's approximations of the square root of `a`. -/
def heron (a : ℚ) : Nat → ℚ
  | 0 => 1
  | k + 1 => (heron a k + a / heron a k) / 2

section
variable {a : ℚ} (ha : 0 < a) (k : Nat)
include ha

theorem heron_pos : 0 < heron a k := by
  induction k with
  | zero => exact one_pos
  | succ k ih => exact half_pos (add_pos ih (div_pos ha ih))

/-- An arithmetic mean is at least the geometric mean. -/
theorem sqrt_le_heron : √(a : ℝ) ≤ heron a (k + 1) := by
  have hx : (0 : ℝ) < heron a k := Rat.cast_pos.mpr (heron_pos ha k)
  have hsq : √(a : ℝ) * √(a : ℝ) = a := Real.mul_self_sqrt (Rat.cast_nonneg.mpr ha.le)
  have hdiv : (a : ℝ) / heron a k * heron a k = a := div_mul_cancel₀ _ hx.ne'
  rw [heron]
  push_cast
  refine le_of_mul_le_mul_right ?_ hx
  nlinarith [sq_nonneg ((heron a k : ℝ) - √(a : ℝ))]

theorem div_heron_le_sqrt : ((a / heron a (k + 1) : ℚ) : ℝ) ≤ √(a : ℝ) := by
  have hx : (0 : ℝ) < heron a (k + 1) := Rat.cast_pos.mpr (heron_pos ha (k + 1))
  have hroot : 0 < √(a : ℝ) := Real.sqrt_pos.mpr (Rat.cast_pos.mpr ha)
  rw [Rat.cast_div, div_le_iff₀ hx, ← div_le_iff₀' hroot, Real.div_sqrt]
  exact sqrt_le_heron ha k

theorem isNearestReal_sqrt {F : Prec} {y : FVal} (h : endsRoundTo F (a / heron a 7) (heron a 7) y) :
    isNearestReal F √(a : ℝ) y :=
  isNearestReal_of_between h (div_heron_le_sqrt ha 6) (sqrt_le_heron ha 6)

end

/-! ### The table of R255 -/

theorem cnZero_rounded (F : Prec) :
    ∀ n : Nat, n < 9 → 1 ≤ n → endsRoundTo F (1 / n / heron (1 / n) 7) (heron (1 / n) 7) (val F (cnZero F n)) := by
  cases F <;> decide +kernel

theorem cnOther_rounded (F : Prec) :
    ∀ n : Nat, n < 9 → 1 ≤ n → endsRoundTo F (2 / n / heron (2 / n) 7) (heron (2 / n) 7) (val F (cnOther F n)) := by
  cases F <;> decide +kernel

theorem cnRom_nearest (F : Prec) {n : Nat} (i : Nat) (hn : 1 ≤ n) (hn8 : n ≤ 8) :
    isNearestReal F (if i = 0 then √(1 / n) else √(2 / n)) (cnRom F n i) := by
  have hpos : (0 : ℚ) < n := Nat.cast_pos.mpr hn
  unfold cnRom
  split
  · simpa using isNearestReal_sqrt (div_pos one_pos hpos) (cnZero_rounded F n (by omega) hn)
  · simpa using isNearestReal_sqrt (div_pos two_pos hpos) (cnOther_rounded F n (by omega) hn)

theorem alphaRom_zero (F : Prec) : alphaRom F 0 = cnRom F 2 0 := by cases F <;> decide +kernel

theorem alphaRom_of_ne_zero (F : Prec) {u : Nat} (hu : u ≠ 0) : alphaRom F u = cnRom F 1 0 :=
  (if_neg hu).trans (Machine.cnRom_one F).symm

/-- Settles O51: `CN` by Heron's bounds of each root; `ALPHA(0)` is `CN(2, 0)`, and the other `ALPHA` are `CN(1, 0)`. -/
theorem normalisationConstantsAreCorrectlyRounded : Obligations.NormalisationConstantsAreCorrectlyRounded := by
  intro F n i hn hn8
  refine ⟨cnRom_nearest F i hn hn8, ?_⟩
  split
  · next hi =>
    subst hi
    rw [alphaRom_zero]
    simpa using cnRom_nearest F (n := 2) 0 (by decide) (by decide)
  · next hi =>
    rw [alphaRom_of_ne_zero F hi]
    simpa using cnRom_nearest F (n := 1) 0 (by decide) (by decide)

end Sys2Proof
end

section
/-! O52: the COS ROM. The partial sums of the cosine's series bound it alternately from above and below, and the 20 decimals of
`π` that Mathlib proves leave an error which no rounding of the table sees. -/

namespace Sys2Proof

open Sys2Proof.Claims

/-! ### The series of the cosine and the sine -/

/-- The first `n` terms of the cosine's series. -/
def cosSum {K : Type} [Field K] (n : Nat) (x : K) : K := ∑ k ∈ Finset.range n, (-1) ^ k * x ^ (2 * k) / (2 * k).factorial

/-- The first `n` terms of the sine's series. -/
noncomputable def sinSum (n : Nat) (x : ℝ) : ℝ := ∑ k ∈ Finset.range n, (-1) ^ k * x ^ (2 * k + 1) / (2 * k + 1).factorial

theorem cast_cosSum (n : Nat) (x : ℚ) : ((cosSum n x : ℚ) : ℝ) = cosSum n (x : ℝ) := by
  simp [cosSum]

theorem hasDerivAt_term (c x : ℝ) (j : Nat) :
    HasDerivAt (fun x => c * x ^ (j + 1) / (j + 1).factorial) (c * x ^ j / j.factorial) x := by
  refine (((hasDerivAt_pow (j + 1) x).const_mul c).div_const _).congr_deriv ?_
  rw [Nat.factorial_succ]
  push_cast
  field_simp

theorem hasDerivAt_sinSum (n : Nat) (x : ℝ) : HasDerivAt (sinSum n) (cosSum n x) x :=
  HasDerivAt.fun_sum fun _ _ => hasDerivAt_term _ x _

theorem cosSum_succ (n : Nat) (x : ℝ) :
    cosSum (n + 1) x = ∑ k ∈ Finset.range n, -(-1) ^ k * x ^ (2 * k + 1 + 1) / (2 * k + 1 + 1).factorial + 1 := by
  simp [cosSum, Finset.sum_range_succ', pow_succ (-1 : ℝ), mul_add]

theorem hasDerivAt_cosSum (n : Nat) (x : ℝ) : HasDerivAt (cosSum (n + 1)) (-sinSum n x) x := by
  rw [funext (cosSum_succ n)]
  refine ((HasDerivAt.fun_sum fun k _ => hasDerivAt_term (-(-1) ^ k) x (2 * k + 1)).add_const 1).congr_deriv ?_
  simp [sinSum, neg_div]

/-! ### Their errors alternate in sign -/

theorem nonneg_of_hasDerivAt_nonneg {f f' : ℝ → ℝ} (h₀ : f 0 = 0) (hf : ∀ x, HasDerivAt f (f' x) x)
    (hf' : ∀ x, 0 ≤ x → 0 ≤ f' x) {x : ℝ} (hx : 0 ≤ x) : 0 ≤ f x := by
  have hmono : MonotoneOn f (Set.Ici 0) :=
    monotoneOn_of_deriv_nonneg (convex_Ici 0) (fun x _ => (hf x).continuousAt.continuousWithinAt)
      (fun x _ => (hf x).differentiableAt.differentiableWithinAt)
      fun x h => (hf x).deriv ▸ hf' x (interior_subset h)
  exact h₀ ▸ hmono Set.self_mem_Ici hx hx

/-- The error of the sine has the error of the cosine as its derivative. -/
theorem sin_error_nonneg {n : Nat} (hcos : ∀ x : ℝ, 0 ≤ x → 0 ≤ (-1) ^ n * (Real.cos x - cosSum n x)) {x : ℝ} (hx : 0 ≤ x) :
    0 ≤ (-1) ^ n * (Real.sin x - sinSum n x) :=
  nonneg_of_hasDerivAt_nonneg (by simp [sinSum])
    (fun x => ((Real.hasDerivAt_sin x).sub (hasDerivAt_sinSum n x)).const_mul _) hcos hx

/-- A partial sum of an odd number of terms is not below the cosine, one of an even number not above it. -/
theorem cos_error_nonneg (n : Nat) {x : ℝ} (hx : 0 ≤ x) : 0 ≤ (-1) ^ (n + 1) * (Real.cos x - cosSum (n + 1) x) := by
  induction n generalizing x with
  | zero => simpa [cosSum] using Real.cos_le_one x
  | succ n ih =>
    refine nonneg_of_hasDerivAt_nonneg (by simp [cosSum, Finset.sum_range_succ'])
      (fun x => ((Real.hasDerivAt_cos x).sub (hasDerivAt_cosSum (n + 1) x)).const_mul _) (fun x hx => ?_) hx
    have hsin := sin_error_nonneg (fun x => ih) hx
    rw [pow_succ]
    linarith

/-! ### The cosine of `m * π / (2 * n)` -/

/-- `m * π / (2 * n)` with the first 20 decimals of `π`. -/
def angleBelow (n m : Nat) : ℚ := m * (314159265358979323846 / 10 ^ 20) / (2 * n)

/-- A lower bound of `cos (m * π / (2 * n))`. -/
def cosBelow (n m : Nat) : ℚ := cosSum 16 (angleBelow n m) - 1 / 10 ^ 20

/-- An upper bound of `cos (m * π / (2 * n))`. -/
def cosAbove (n m : Nat) : ℚ := cosSum 17 (angleBelow n m) + 1 / 10 ^ 20

section
variable {n m : Nat} (hn : 1 ≤ n) (hm : m ≤ 2 * n)
include hn hm

theorem abs_angle_sub_angleBelow_le : |m * Real.pi / (2 * n) - angleBelow n m| ≤ 1 / 10 ^ 20 := by
  have hlo := Real.pi_gt_d20
  have hhi := Real.pi_lt_d20
  have hpos : (0 : ℝ) < 2 * n := by positivity
  have hratio : (m : ℝ) / (2 * n) ≤ 1 := (div_le_one hpos).mpr (by exact_mod_cast hm)
  have hdiff : m * Real.pi / (2 * n) - angleBelow n m = m / (2 * n) * (Real.pi - 314159265358979323846 / 10 ^ 20) := by
    rw [angleBelow]
    push_cast
    ring
  rw [hdiff, abs_of_nonneg (mul_nonneg (by positivity) (by linarith))]
  exact (mul_le_of_le_one_left (by linarith) hratio).trans (by linarith)

theorem cos_between : (cosBelow n m : ℝ) ≤ Real.cos (m * Real.pi / (2 * n)) ∧ Real.cos (m * Real.pi / (2 * n)) ≤ cosAbove n m := by
  have hangle : (0 : ℝ) ≤ angleBelow n m := Rat.cast_nonneg.mpr (by unfold angleBelow; positivity)
  have hlo := cos_error_nonneg 15 hangle
  have hhi := cos_error_nonneg 16 hangle
  norm_num at hlo hhi
  obtain ⟨hlo', hhi'⟩ := abs_le.mp ((Real.abs_cos_sub_cos_le _ _).trans (abs_angle_sub_angleBelow_le hn hm))
  push_cast [cosBelow, cosAbove, cast_cosSum]
  constructor <;> linarith

end

/-! ### The fold of R250 -/

theorem cosIndex_le (n k i : Nat) : cosIndex n k i ≤ 2 * n := by
  unfold cosIndex
  split <;> omega

section
variable {n : Nat} (hn : 1 ≤ n)
include hn

theorem cos_mod_four_mul (a : Nat) : Real.cos ((a % (4 * n) : Nat) * Real.pi / (2 * n)) = Real.cos (a * Real.pi / (2 * n)) := by
  have hdiv : (a : ℝ) = (a % (4 * n) : Nat) + 4 * n * (a / (4 * n) : Nat) := by
    exact_mod_cast (Nat.mod_add_div a (4 * n)).symm
  have hangle : a * Real.pi / (2 * n) = (a % (4 * n) : Nat) * Real.pi / (2 * n) + (a / (4 * n) : Nat) * (2 * Real.pi) := by
    rw [hdiv]
    field_simp
    ring
  rw [hangle, Real.cos_add_nat_mul_two_pi]

theorem cos_cosIndex (k i : Nat) :
    Real.cos (cosIndex n k i * Real.pi / (2 * n)) = Real.cos ((2 * k + 1) * i * Real.pi / (2 * n)) := by
  have hfold := cos_mod_four_mul hn ((2 * k + 1) * i)
  push_cast at hfold
  rw [← hfold, cosIndex]
  split
  · rfl
  · rw [← Real.cos_two_pi_sub, Nat.cast_sub (Nat.mod_lt _ (by omega)).le]
    congr 1
    push_cast
    field_simp
    ring

end

/-! ### The table of R254 -/

theorem cosTable_rounded (F : Prec) : ∀ n < 9, ∀ m < 2 * n + 1, m ≠ n →
    endsRoundTo F (cosBelow n m) (cosAbove n m) (val F (cosTable F n m)) := by
  cases F <;> decide +kernel

theorem cosTable_middle (F : Prec) : ∀ n < 9, endsRoundTo F 0 0 (val F (cosTable F n n)) := by
  cases F <;> decide +kernel

theorem cosTable_ne_neg_zero (F : Prec) : ∀ n < 9, ∀ m < 2 * n + 1, val F (cosTable F n m) ≠ .fin true 0 := by
  cases F <;> decide +kernel

theorem cosTable_nearest (F : Prec) {n m : Nat} (hn : 1 ≤ n) (hn8 : n ≤ 8) (hm : m ≤ 2 * n) :
    isNearestReal F (Real.cos (m * Real.pi / (2 * n))) (val F (cosTable F n m)) := by
  rcases eq_or_ne m n with rfl | hmn
  · have hhalf : m * Real.pi / (2 * m) = Real.pi / 2 := by field_simp
    have hzero : Real.cos (m * Real.pi / (2 * m)) = 0 := hhalf ▸ Real.cos_pi_div_two
    exact isNearestReal_of_between (cosTable_middle F m (by omega)) (by simp [hzero]) (by simp [hzero])
  · obtain ⟨hlo, hhi⟩ := cos_between hn hm
    exact isNearestReal_of_between (cosTable_rounded F n (by omega) m (by omega) hmn) hlo hhi

/-- Settles O52: R250 folds the angle into `0 .. π`, where both bounds of each cosine round to the entry; the middle entry of a
row is the zero of the cosine. -/
theorem cosRomIsCorrectlyRounded : Obligations.CosRomIsCorrectlyRounded := by
  intro F n k i hn hn8 _ _
  have hm := cosIndex_le n k i
  exact ⟨cos_cosIndex hn k i ▸ cosTable_nearest F hn hn8 hm, cosTable_ne_neg_zero F n (by omega) _ (by omega)⟩

end Sys2Proof
end

section
/-! O23: the system commands. None has a check to fail, so each completes with the writes of its body. -/

namespace Sys2Proof.Machine

open Sys2Proof.Claims

section
variable (s : State)

theorem exec_nop : exec .nop s = .next s.complete := exec_of_body_ok rfl

theorem exec_errclr : exec .errclr s = .next (s.setStat s.stat.clearSticky).complete := exec_of_body_ok rfl

theorem exec_gmov : exec .gmov s = .next (s.setGin s.gout).complete := exec_of_body_ok rfl

/-- Completing writes the status registers only, and of them `LASTERR` and `CMDCNT` (R260, R274). -/
theorem State.complete_eq_done : s.complete = { s with stat := done s.stat } := rfl

/-- `STICKY` cleared is none of the flags that completing writes (R261). -/
theorem State.complete_clearSticky :
    (s.setStat s.stat.clearSticky).complete = { s with stat := { done s.stat with sticky := false } } := rfl

end

/-- Settles O23: `NOP` only completes, `ERRCLR` clears `STICKY` and completes, `GMOV` replaces `GIN` by `GOUT` and completes. -/
theorem systemCommandsComplete : Obligations.SystemCommandsComplete := by
  intro s
  refine ⟨?nop, ?errclr, (s.setGin s.gout).complete, exec_gmov s, ?frame, ?copy⟩
  case nop => rw [exec_nop, State.complete_eq_done]
  case errclr => rw [exec_errclr, State.complete_clearSticky]
  case frame => exact State.complete_eq_done _
  case copy =>
    intro a b _ _
    rw [State.complete_gin, State.setGin_gin]

end Sys2Proof.Machine
end

section
/-! O21, O20, O7: the errors each command can raise, and what raising and completing leave of the state. The error a command takes
is that of the first of its checks that fails, so R279 follows from what each check can answer. -/

namespace Sys2Proof.Machine

open Sys2Proof.Claims

/-! ### The errors of each check -/

section
variable {e : CommandError}

/-- The error of two checks is that of the first or of the second. -/
theorem seq_error {α : Type} {c : Except CommandError Unit} {k : Except CommandError α}
    (h : (do c; k : Except CommandError α) = .error e) : c = .error e ∨ k = .error e := by
  cases c with
  | ok _ => exact .inr h
  | error _ => cases h; exact .inl rfl

theorem tagOf_error {fmt : Nat} (h : tagOf fmt = .error e) : e = .invalidFormat fmt := by
  unfold tagOf at h
  split at h <;> cases h
  rfl

theorem checkCapacity_error {p : Platform} {o : OperandRegs} (h : checkCapacity p o = .error e) : e = .paramRange 4 0 := by
  unfold checkCapacity at h
  split at h <;> cases h
  rfl

theorem checkInside_error {m : PixelMatrix} {o : OperandRegs} (h : checkInside m o = .error e) :
    e = .indexOutOfRange o.row o.col := by
  unfold checkInside at h
  split at h <;> cases h
  rfl

theorem checkRegion_error {m : PixelMatrix} {o : OperandRegs} (h : checkRegion m o = .error e) :
    e = .indexOutOfRange 0 m.width ∨ e = .indexOutOfRange m.height 0 := by
  unfold checkRegion at h
  split at h
  · split at h <;> cases h
    · exact .inl rfl
    · exact .inr rfl
  · cases h

theorem checkFootprint_error {p : Platform} {dir : Dir} {o : OperandRegs} (h : checkFootprint p dir o = .error e) :
    ∃ a, e = .busFault a dir := by
  unfold checkFootprint at h
  split at h <;> cases h
  exact ⟨_, rfl⟩

theorem checkExtents_error {o : OperandRegs} (h : checkExtents o = .error e) :
    e = .paramRange 1 o.gw ∨ e = .paramRange 2 o.gh := by
  unfold checkExtents at h
  split at h
  · cases h; exact .inl rfl
  · split at h <;> cases h
    exact .inr rfl

theorem checkExtentsAndParts_error {o : OperandRegs} (h : checkExtentsAndParts o = .error e) :
    e = .paramRange 1 o.gw ∨ e = .paramRange 2 o.gh ∨ e = .paramRange 3 o.npart := by
  obtain hext | hparts := seq_error h
  · exact (checkExtents_error hext).imp_right .inl
  · split at hparts <;> cases hparts
    exact .inr (.inr rfl)

end

/-! ### The errors of each command -/

/-- The table of R279 with the information words of R272: the errors `i` can raise in `s`. -/
inductive Raisable (s : State) : Instr → CommandError → Prop where
  | format (n : Fin 4) (fmt : Nat) : Raisable s (.pxnew n fmt) (.invalidFormat fmt)
  | capacity {i : Instr} (hi : i = .mnew ∨ i = .mfrr) : Raisable s i (.paramRange 4 0)
  | cell {i : Instr} (hi : ∃ n, i = .mget n ∨ i = .mset n) : Raisable s i (.indexOutOfRange s.opnd.row s.opnd.col)
  | width : Raisable s .mtor (.indexOutOfRange 0 s.mat.width)
  | height : Raisable s .mtor (.indexOutOfRange s.mat.height 0)
  | read (a : Nat) : Raisable s .mfrr (.busFault a .rd)
  | write (a : Nat) : Raisable s .mtor (.busFault a .wr)
  | gw {i : Instr} {F : Prec} {φ : Formulation} {f : CellFn} (h : Transform F φ i f) : Raisable s i (.paramRange 1 s.opnd.gw)
  | gh {i : Instr} {F : Prec} {φ : Formulation} {f : CellFn} (h : Transform F φ i f) : Raisable s i (.paramRange 2 s.opnd.gh)
  | npart {i : Instr} {F : Prec} {f : CellFn} (h : Transform F .a i f) : Raisable s i (.paramRange 3 s.opnd.npart)

section
variable {i : Instr} {s : State} {e : CommandError}

/-- A transform checks `GW` and `GH`, one of Formulation A `NPART` too (R204). -/
theorem Transform.raisable {F : Prec} {φ : Formulation} {f : CellFn} (ht : Transform F φ i f) (h : body i s = .error e) :
    Raisable s i e := by
  have hc : φ.check s.opnd = .error e := bind_error (ht.body_eq s ▸ h)
  cases φ with
  | a =>
    obtain rfl | rfl | rfl := checkExtentsAndParts_error hc
    · exact .gw ht
    · exact .gh ht
    · exact .npart ht
  | b =>
    obtain rfl | rfl := checkExtents_error hc
    · exact .gw ht
    · exact .gh ht

/-- The counterpart of `body_ok_writes`: the errors of `body`. -/
theorem body_error_raisable (h : body i s = .error e) : Raisable s i e := by
  cases i with
  | nop | errclr | pxr | pxg | pxb | pxy | pxcb | pxcr | gmov => cases h
  | pxnew n fmt =>
    simp only [body] at h
    cases ht : tagOf fmt with
    | ok tag => rw [ht] at h; cases h
    | error e' =>
      rw [ht] at h
      cases h
      exact tagOf_error ht ▸ .format n fmt
  | mnew => exact checkCapacity_error (bind_error h) ▸ .capacity (.inl rfl)
  | mget n => exact checkInside_error (bind_error h) ▸ .cell ⟨n, .inl rfl⟩
  | mset n => exact checkInside_error (bind_error h) ▸ .cell ⟨n, .inr rfl⟩
  | mfrr =>
    obtain hcap | hrest := seq_error h
    · exact checkCapacity_error hcap ▸ .capacity (.inr rfl)
    · obtain ⟨a, rfl⟩ := checkFootprint_error (bind_error hrest)
      exact .read a
  | mtor =>
    obtain hregion | hfoot := seq_error (bind_error h)
    · obtain rfl | rfl := checkRegion_error hregion
      · exact .width
      · exact .height
    · obtain ⟨a, rfl⟩ := checkFootprint_error hfoot
      exact .write a
  | dcta F => exact Transform.dcta.raisable h
  | idcta F => exact Transform.idcta.raisable h
  | dctb F => exact Transform.dctb.raisable h
  | idctb F => exact Transform.idctb.raisable h

end

/-- Settles O21: a command that completes leaves `LASTERR` 0, and one that raises reports an error of its row of R279. -/
theorem errorsByCommand : Obligations.ErrorsByCommand := by
  intro i s t h
  obtain ⟨u, -, rfl⟩ | ⟨e, he, rfl⟩ := exec_cases h
  · have hdone : u.complete.stat.lastErr = 0 := rfl
    cases i with
    | nop | errclr | pxr | pxg | pxb | pxy | pxcb | pxcr | gmov => exact hdone
    | pxnew | mnew | mget | mset | mfrr | mtor | dcta | idcta | dctb | idctb => exact .inl hdone
  · cases body_error_raisable he with
    | format => exact .inr rfl
    | capacity hi =>
      obtain rfl | rfl := hi
      · exact .inr ⟨rfl, rfl⟩
      · exact .inr (.inl ⟨rfl, rfl⟩)
    | cell hi => obtain ⟨n, rfl | rfl⟩ := hi <;> exact .inr rfl
    | width | height => exact .inr (.inl rfl)
    | read | write => exact .inr (.inr rfl)
    | gw ht => cases ht <;> exact .inr ⟨rfl, .head _⟩
    | gh ht => cases ht <;> exact .inr ⟨rfl, .tail _ (.head _)⟩
    | npart ht => cases ht <;> exact .inr ⟨rfl, .tail _ (.tail _ (.head _))⟩

/-! ### The outcome of a word written to `CMD` -/

theorem CommandError.code_ne_zero (e : CommandError) : e.code ≠ 0 := by
  cases e <;> simp [CommandError.code]

/-- The inversion lemma of `State.runCommand`: an error is taken, a word that is no command being one, or a command completes. -/
theorem runCommand_cases {s t : State} {w : Word} (h : s.runCommand w = .next t) :
    (∃ e, t = s.raiseError e) ∨ ∃ i u, decode w = .ok i ∧ body i s = .ok u ∧ t = u.complete := by
  unfold State.runCommand at h
  cases hd : decode w with
  | error x =>
    rw [hd] at h
    cases h
    exact .inl ⟨_, rfl⟩
  | ok i =>
    rw [hd] at h
    obtain ⟨u, hu, rfl⟩ | ⟨e, -, rfl⟩ := exec_cases h
    · exact .inr ⟨i, u, rfl, hu, rfl⟩
    · exact .inl ⟨e, rfl⟩

/-- Settles O20: no error has code 0, so `LASTERR` tells a command that raised from one that completed; and the only writes of
a command to the status registers before it completes are those of `ERRCLR`, whose only word is 0x00000001. -/
theorem raisingCommandWritesOnlyTheErrorReport : Obligations.RaisingCommandWritesOnlyTheErrorReport := by
  intro s w rest hh
  obtain ⟨t, ht⟩ := exists_next_of_runCommand (s.setHost rest) w
  refine ⟨t, (step_cmd hh).trans ht, ?_⟩
  obtain ⟨e, rfl⟩ | ⟨i, u, hd, hu, rfl⟩ := runCommand_cases ht
  · exact ⟨fun _ => ⟨e.infoA, e.infoB, rfl⟩, fun h0 => absurd h0 e.code_ne_zero⟩
  · refine ⟨absurd rfl, fun _ => ?_⟩
    obtain hst | ⟨rfl, hst⟩ := (body_ok_writes hu).stat
    · simp [hst]
    · simp [hst, eq_one_of_decode_errclr hd]

/-- Settles O7: `step` on an empty list of events. -/
theorem idleWithoutEvents : Obligations.IdleWithoutEvents := by
  intro s hh
  rw [step, hh]

end Sys2Proof.Machine
end

section
/-! O17: the parameters. -/

namespace Sys2Proof.Machine

/-- Settles O17: a command writes no parameter (O22), and neither does any other event. -/
theorem parametersNeverChange : Obligations.ParametersNeverChange := by
  intro s t h
  obtain ⟨-, rfl⟩ | ⟨e, rest, -, he⟩ := step_cases h
  · rfl
  · obtain ⟨off, v, rfl, -, -, rfl⟩ | ⟨w, i, rfl, -, hx⟩ | ⟨w, x, rfl, -, rfl⟩ | ⟨off, rfl, -, rfl⟩ | ⟨rfl, rfl⟩ |
      ⟨w, n, rfl, rfl⟩ | ⟨a, v, rfl, rfl⟩ := runEvent_cases he
    · obtain ⟨o, g, hw⟩ := (s.setHost rest).busWrite_eq_set off v
      rw [hw]
      rfl
    · obtain ⟨-, hplat, -⟩ := eachStoreHasItsWriters i _ t hx
      exact hplat
    all_goals rfl

end Sys2Proof.Machine
end

section
/-! O14: a reset in mid-command. An abandoned `MTOR` has made its byte writes at the first points of the access order. -/

namespace Sys2Proof.Machine

open Sys2Proof.Claims

/-! ### The checks of `MTOR` -/

section
variable {s : State}

/-- A region that does not fit fails the column test or the row test (R168). -/
theorem regionFits_of_checkRegion (h : checkRegion s.mat s.opnd = .ok ()) : regionFits s := by
  by_contra hout
  simp only [regionFits, not_or, not_and_or, not_le] at hout
  obtain ⟨hh, hw, hsize⟩ := hout
  rcases Nat.lt_or_ge s.mat.width.toNat s.opnd.argw.toNat with hwide | hfit
  · rw [checkRegion_eq_error_of_wide (Nat.pos_of_ne_zero hh) hwide] at h
    cases h
  · rw [checkRegion_eq_error_of_high (Nat.pos_of_ne_zero hw) hfit (hsize.resolve_right hfit.not_gt)] at h
    cases h

/-- The checks of `MTOR` pass just for a region inside the Matrix whose bytes may all be written (R168). -/
theorem checkExport_ok_iff : s.checkExport = .ok () ↔ regionFits s ∧ ∀ a ∈ region s, mayAccess s .wr a := by
  refine ⟨fun h => ?_, fun ⟨hregion, hwrite⟩ => checkExport_eq_ok hregion hwrite⟩
  obtain ⟨hregion, hfoot⟩ := seq_ok h
  rw [checkFootprint_ok_iff, footprint_eq_region] at hfoot
  exact ⟨regionFits_of_checkRegion hregion, fun a ha => accessible_iff.mp (hfoot a ha)⟩

/-! ### The bytes an abandoned command has written -/

variable {w : Word} {n : Nat}

/-- A command that is no `MTOR`, or fails its checks, has written nothing (R310). -/
theorem abandonedWrites_eq_nil (h : ¬(decode w = .ok .mtor ∧ s.checkExport = .ok ())) : s.abandonedWrites w n = [] := by
  unfold State.abandonedWrites
  split
  · next hd =>
    split
    · next hc => exact absurd ⟨hd, hc⟩ h
    · rfl
  · rfl

/-- Of an `MTOR` whose checks pass, the writes at the first `n` points of the access order (R78, R310). -/
theorem abandonedWrites_eq_map (hd : decode w = .ok .mtor) (hc : s.checkExport = .ok ()) :
    s.abandonedWrites w n = ((points s).take n).map s.exportAt := by
  rw [State.abandonedWrites, hd, hc, List.map_take, ← exportWrites_eq_map]

theorem take_region_eq_map : (region s).take n = ((points s).take n).map fun p => addr s p.1 p.2.1 p.2.2 := by
  rw [region_eq_map, List.map_take]

/-- The raster after a reset in mid-command: the abandoned command's writes stay (R310). -/
theorem State.raster_resetDuring_setHost (rest : List HostEvent) :
    ((s.setHost rest).resetDuring w n).raster = s.raster.writeAll (s.abandonedWrites w n) := rfl

end

/-- Settles O14: the writes of the abandoned command are those at the first `n` points, if its checks pass, and otherwise none;
in the list of those points the last write to an address stands. -/
theorem resetInMidCommandKeepsAPrefix : Obligations.ResetInMidCommandKeepsAPrefix := by
  intro s w n rest hh
  refine ⟨(s.setHost rest).resetDuring w n, step_of_host hh, isReset_afterReset _ _ _ _ _, rfl, rfl, ?none, ?some⟩
  case none =>
    intro hnone
    rw [State.raster_resetDuring_setHost, abandonedWrites_eq_nil]
    · rfl
    · rintro ⟨hd, hc⟩
      obtain ⟨hregion, hwrite⟩ := checkExport_ok_iff.mp hc
      obtain hne | hout | ⟨a, ha, hbad⟩ := hnone
      · exact hne hd
      · exact hout hregion
      · exact hbad (hwrite a ha)
  case some =>
    intro hd hregion hwrite
    have hc := checkExport_eq_ok hregion hwrite
    rw [State.raster_resetDuring_setHost, abandonedWrites_eq_map hd hc, take_region_eq_map]
    refine ⟨fun a ha => ?kept, fun hs r c b done later hsplit hlater => ?written, fun hall => ?whole⟩
    case kept =>
      refine Memory.read_writeAll_of_not_mem _ _ a fun e he hea => ha ?_
      obtain ⟨p, hp, rfl⟩ := List.mem_map.mp he
      exact hea ▸ List.mem_map_of_mem hp
    case written =>
      rw [hsplit]
      refine clampedTo_read_exports hs.raster (fun e he => exportWrites_lt hc e ?_) hlater
      obtain ⟨p, hp, rfl⟩ := List.mem_map.mp he
      have hmem : p ∈ (points s).take n := hsplit ▸ List.mem_append_left _ hp
      exact exportWrites_eq_map s ▸ List.mem_map_of_mem (List.mem_of_mem_take hmem)
    case whole =>
      rw [region_eq_map, List.length_map] at hall
      rw [List.take_of_length_le hall, ← exportWrites_eq_map]
      exact ⟨_, exec_mtor hc, rfl⟩

end Sys2Proof.Machine
end

section
/-! O45: the transform of a grid of zeros. A product of a zero and a finite value is a zero, zeros add up to `+0`, and the factors
in front of a sum are finite, since rounding takes no number past a power of two that bounds it. -/

namespace Sys2Proof

open Sys2Proof.Claims

/-! ### Non-negative values up to a power of two -/

/-- A finite value from `+0` up to `2 ^ k`. -/
def FVal.upTo (F : Prec) (k : Nat) : FVal → Bool
  | .fin false m => decide (m ≤ 2 ^ (k + F.unitExp))
  | .fin true _ | .inf _ | .nan => false

theorem FVal.upTo_iff {F : Prec} {k : Nat} {x : FVal} : x.upTo F k ↔ ∃ m ≤ 2 ^ (k + F.unitExp), x = .fin false m := by
  cases x with
  | nan | inf => simp [FVal.upTo]
  | fin s m => cases s <;> simp [FVal.upTo]

/-- Rounding takes no number past a power of two that bounds it: the bound is a number of the format, and nearer. -/
theorem rnMag_le_two_pow (F : Prec) {n d e : Nat} (hd : 0 < d) (h : n ≤ d * 2 ^ e) : rnMag F n d ≤ 2 ^ e := by
  have hpos : (0 : ℚ) < d := by exact_mod_cast hd
  have hle : (n : ℚ) / d ≤ 2 ^ e := (div_le_iff₀' hpos).mpr (by exact_mod_cast h)
  have hnear := (rnMag_nearest_rat F n hd e (Nat.one_lt_two_pow (Nat.succ_ne_zero F.fracBits))).1
  rw [one_mul, Nat.cast_pow, Nat.cast_ofNat, abs_of_nonneg (sub_nonneg.mpr hle)] at hnear
  have hr : (rnMag F n d : ℚ) ≤ 2 ^ e := by linarith [le_abs_self ((rnMag F n d : ℚ) - n / d)]
  exact_mod_cast hr

theorem two_pow_lt_topExp (F : Prec) {k : Nat} (hk : k < 128) : 2 ^ (k + F.unitExp) < 2 ^ F.topExp := by
  refine Nat.pow_lt_pow_right one_lt_two ?_
  cases F <;> simp only [Prec.unitExp, Prec.topExp] <;> omega

theorem rn_upTo (F : Prec) {n d k : Nat} (hd : 0 < d) (h : n ≤ d * 2 ^ (k + F.unitExp)) (hk : k < 128) :
    (rn F false n d).upTo F k := by
  have hle := rnMag_le_two_pow F hd h
  exact FVal.upTo_iff.mpr ⟨rnMag F n d, hle, if_pos (hle.trans_lt (two_pow_lt_topExp F hk))⟩

theorem fmul_upTo {F : Prec} {x y : FVal} {j k : Nat} (hx : x.upTo F j) (hy : y.upTo F k) (hjk : j + k < 128) :
    (fmul F x y).upTo F (j + k) := by
  obtain ⟨m, hm, rfl⟩ := FVal.upTo_iff.mp hx
  obtain ⟨n, hn, rfl⟩ := FVal.upTo_iff.mp hy
  refine rn_upTo F (Nat.two_pow_pos _) ?_ hjk
  calc m * n ≤ 2 ^ (j + F.unitExp) * 2 ^ (k + F.unitExp) := Nat.mul_le_mul hm hn
    _ = 2 ^ F.unitExp * 2 ^ (j + k + F.unitExp) := by ring

theorem fadd_upTo {F : Prec} {x y : FVal} {k : Nat} (hx : x.upTo F k) (hy : y.upTo F k) (hk : k + 1 < 128) :
    (fadd F x y).upTo F (k + 1) := by
  obtain ⟨m, hm, rfl⟩ := FVal.upTo_iff.mp hx
  obtain ⟨n, hn, rfl⟩ := FVal.upTo_iff.mp hy
  rw [fadd, if_pos rfl]
  refine rn_upTo F one_pos ?_ hk
  calc m + n ≤ 2 ^ (k + F.unitExp) + 2 ^ (k + F.unitExp) := Nat.add_le_add hm hn
    _ = 1 * 2 ^ (k + 1 + F.unitExp) := by ring

/-! ### The factors of R209 -/

theorem cnZero_upTo (F : Prec) : ∀ n < 9, (val F (cnZero F n)).upTo F 1 := by cases F <;> decide +kernel

theorem cnOther_upTo (F : Prec) : ∀ n < 9, (val F (cnOther F n)).upTo F 1 := by cases F <;> decide +kernel

/-- `CN` is at most `sqrt 2` (R251, R255). -/
theorem cnRom_upTo (F : Prec) {n : Nat} (hn : n ≤ 8) (i : Nat) : (cnRom F n i).upTo F 1 := by
  unfold cnRom
  split
  · exact cnZero_upTo F n (Nat.lt_succ_of_le hn)
  · exact cnOther_upTo F n (Nat.lt_succ_of_le hn)

/-- `ALPHA(0)` is `CN(2, 0)`, and the other `ALPHA` are `CN(1, 0)`. -/
theorem alphaRom_upTo (F : Prec) (u : Nat) : (alphaRom F u).upTo F 1 := by
  rcases eq_or_ne u 0 with rfl | hu
  · rw [alphaRom_zero]
    exact cnRom_upTo F (by decide) 0
  · rw [alphaRom_of_ne_zero F hu]
    exact cnRom_upTo F (by decide) 0

theorem inverse_upTo (F : Prec) {n : Nat} (hn : 1 ≤ n) : (fdiv F (.ofNat F 1) (.ofNat F n)).upTo F 0 := by
  have hpos : 0 < n * 2 ^ F.unitExp := Nat.mul_pos hn (Nat.two_pow_pos _)
  rw [FVal.ofNat, FVal.ofNat, fdiv_fin_fin F _ _ _ hpos.ne']
  refine rn_upTo F hpos ?_ (by decide)
  rw [zero_add]
  exact Nat.mul_le_mul_right _ (Nat.mul_le_mul_right _ hn)

/-- `BETA = 1/W + 1/H` is at most 2 (R253). -/
theorem beta_upTo (F : Prec) {W H : Nat} (hW : 1 ≤ W) (hH : 1 ≤ H) : (beta F H W).upTo F 1 :=
  fadd_upTo (inverse_upTo F hW) (inverse_upTo F hH) (by decide)

/-! ### Finite values and zeros -/

/-- A number, of either sign. -/
def FVal.isFinite (x : FVal) : Prop := ∃ s m, x = .fin s m

/-- A zero, of either sign. -/
def FVal.isZero (x : FVal) : Prop := ∃ s, x = .fin s 0

theorem FVal.isFinite_of_upTo {F : Prec} {k : Nat} {x : FVal} (hx : x.upTo F k) : x.isFinite := by
  obtain ⟨m, -, rfl⟩ := FVal.upTo_iff.mp hx
  exact ⟨false, m, rfl⟩

/-- An entry of the COS ROM is a number, being nearest to a cosine (R250). -/
theorem cosRom_isFinite (F : Prec) {n : Nat} (hn : 1 ≤ n) (hn8 : n ≤ 8) (k i : Nat) : (cosRom F n k i).isFinite := by
  obtain ⟨s, m, h, -⟩ := cosTable_nearest F hn hn8 (cosIndex_le n k i)
  exact ⟨s, m, h⟩

section
variable {F : Prec} {x y : FVal}

theorem FVal.isZero.mul (hx : x.isZero) (hy : y.isFinite) : (fmul F x y).isZero := by
  obtain ⟨s, rfl⟩ := hx
  obtain ⟨t, n, rfl⟩ := hy
  exact ⟨s ^^ t, fmul_zero_fin F s t n⟩

theorem FVal.isZero.mul_left (hy : y.isZero) (hx : x.isFinite) : (fmul F x y).isZero :=
  fmul_comm F y x ▸ hy.mul hx

/-- A zero of either sign leaves `+0` (R12). -/
theorem fadd_zero_isZero (hy : y.isZero) : fadd F .zero y = .zero := by
  obtain ⟨s, rfl⟩ := hy
  cases s with
  | false => exact fadd_zero_same F false
  | true => exact fadd_fin_not F false 0

theorem fmul_upTo_zero {k : Nat} (hx : x.upTo F k) : fmul F x .zero = .zero := by
  obtain ⟨m, -, rfl⟩ := FVal.upTo_iff.mp hx
  exact fmul_fin_zero F false false m

end

theorem storeContainer_zero (F : Prec) (n : Nat) : storeContainer F n .zero = 0 := by
  have hbits : bits F n .zero = 0 := by simp [bits, FVal.zero, signBits, magBits]
  rw [storeContainer, hbits]
  rfl

end Sys2Proof

namespace Sys2Proof.Machine

open Sys2Proof.Claims

/-! ### The transforms -/

/-- A sum of zeros is `+0`, from which it starts (R209). -/
theorem gridSum_eq_zero (F : Prec) {W H : Nat} {term : Nat → Nat → FVal}
    (hterm : ∀ a b, a < W → b < H → (term a b).isZero) : gridSum F W H term = .zero := by
  refine List.foldlRecOn (motive := (· = FVal.zero)) _ _ rfl fun acc hacc ab hab => ?_
  obtain ⟨ha, hb⟩ := mem_gridCells.mp hab
  rw [hacc, fadd_zero_isZero (hterm ab.1 ab.2 ha hb)]

/-- In a grid of zeros every term of a cell's sum is a zero, and the factor in front of the sum is a number that is not negative
(R209, R313). -/
theorem Transform.cell_eq_zero {F : Prec} {φ : Formulation} {i : Instr} {f : CellFn} (h : Transform F φ i f) {W H : Nat}
    (hW : 1 ≤ W) (hW8 : W ≤ 8) (hH : 1 ≤ H) (hH8 : H ≤ 8) {x : Nat → Nat → FVal}
    (hx : ∀ a b, a < W → b < H → (x a b).isZero) (u v : Nat) : f F W H x u v = .zero := by
  have hcosW (k i) := cosRom_isFinite F hW hW8 k i
  have hcosH (k i) := cosRom_isFinite F hH hH8 k i
  have hcn (i j) : (fmul F (cnRom F W i) (cnRom F H j)).upTo F 2 :=
    fmul_upTo (cnRom_upTo F hW8 i) (cnRom_upTo F hH8 j) (by decide)
  have halpha (u) := FVal.isFinite_of_upTo (alphaRom_upTo F u)
  have hbeta := beta_upTo F hW hH
  cases h with
  | dcta =>
    rw [cellAFwd, gridSum_eq_zero F fun k l hk hl => ?_, fmul_upTo_zero (hcn u v)]
    exact ((hx k l hk hl).mul (hcosW k u)).mul (hcosH l v)
  | idcta =>
    rw [cellAInv, gridSum_eq_zero F fun i j hi hj => ?_]
    exact (((hx i j hi hj).mul_left (FVal.isFinite_of_upTo (hcn i j))).mul (hcosW u i)).mul (hcosH v j)
  | dctb =>
    have hfactor := fmul_upTo (fmul_upTo hbeta (alphaRom_upTo F u) (by decide)) (alphaRom_upTo F v) (by decide)
    rw [cellBFwd, gridSum_eq_zero F fun a b ha hb => ?_, fmul_upTo_zero hfactor]
    exact ((hx a b ha hb).mul (hcosW a u)).mul (hcosH b v)
  | idctb =>
    rw [cellBInv, gridSum_eq_zero F fun a b ha hb => ?_, fmul_upTo_zero hbeta]
    exact ((((hx a b ha hb).mul (hcosW u a)).mul (hcosH v b)).mul (halpha a)).mul (halpha b)

/-- Settles O45: each cell of the grid is `+0`, whose encoding is 0, and every container outside the grid is 0 (R217). -/
theorem zeroGridTransformsToZero : Obligations.ZeroGridTransformsToZero := by
  intro s F hl hp hzero i hi
  obtain ⟨φ, f, h⟩ := transform_of_mem hi
  have ⟨⟨hW, hW8⟩, hH, hH8⟩ := hl
  refine ⟨_, h.exec_eq hl fun _ => hp, fun a b ha hb => ?_⟩
  refine (s.get_resultGrid F _ ha hb).trans ?_
  rw [h.cell_eq_zero hW hW8 hH hH8 fun a b ha hb => ⟨false, hzero a b ha hb⟩, storeContainer_zero, ite_self]

end Sys2Proof.Machine
end
